-- ==== Sys2Proof/Word.lean ====
section
/-! DEFINITION. The word types of the hardware: instruction words, program bytes, the fields of a word.
The content of a data cell is a plain `Nat`: the spec gives a non-negative integer without a bound (R14, R15). -/

namespace Sys2Proof

/-- One byte of the program store (R30): 8 bits. -/
abbrev Byte := BitVec 8

/-- One instruction word (R50): a 56-bit unsigned integer; bit 0 is its least significant bit (R5). -/
abbrev Word := BitVec 56

/-- The 5-bit opcode tag (R52). -/
abbrev Tag := BitVec 5

/-- A 16-bit address field (R53 to R56): the index of a data cell. -/
abbrev Addr := BitVec 16

/-- The 20-bit immediate field of `LoadConst` (R53). -/
abbrev Constant := BitVec 20

/-- The 5-bit displacement field of `Write` (R55). -/
abbrev Offset := BitVec 5

end Sys2Proof
end

