-- ==== Sys2Proof/Syntax.lean ====
section
/-! DEFINITION. The instruction syntax: the outcomes of unpacking a word (`Instr`, one constructor for each row of the
opcode table), the records that packing takes (`Record`), and the one reason the byte decoder rejects its input. -/

namespace Sys2Proof

/-- What unpacking a 7-byte word gives (R61, R132): one of the four instructions, its fields exactly as wide as the
word's fields, or `UnknownOpcode(tag)`. The opcode table has one row for each of the 28 unknown tags (R57), so each has
a constructor here; R63 says that these 28 are decode outcomes and not instructions that can be packed, which is what
`Instr.wellFormed` says. -/
inductive Instr where
  /-- `LoadConst` (tag 19, R53, R100): store a constant to a cell. -/
  | loadConst (address : Addr) (constant : Constant)
  /-- `Read` (tag 3, R54, R105): copy the cell at `srcAddr` to the cell at `dstAddr`. -/
  | read (dstAddr srcAddr : Addr)
  /-- `Write` (tag 20, R55, R110): copy the cell at `srcAddr` to the cell at `baseAddr + offset`. -/
  | write (srcAddr : Addr) (offset : Offset) (baseAddr : Addr)
  /-- `Max` (tag 7, R56, R117): store the larger of the cells at `addrB` and `addrD` to the cell at `addrC`. -/
  | max (addrB addrC addrD : Addr)
  /-- `UnknownOpcode(0)` (R57, R63): a word whose tag is 0. -/
  | unknownOpcode0
  /-- `UnknownOpcode(1)` (R57, R63): a word whose tag is 1. -/
  | unknownOpcode1
  /-- `UnknownOpcode(2)` (R57, R63): a word whose tag is 2. -/
  | unknownOpcode2
  /-- `UnknownOpcode(4)` (R57, R63): a word whose tag is 4. -/
  | unknownOpcode4
  /-- `UnknownOpcode(5)` (R57, R63): a word whose tag is 5. -/
  | unknownOpcode5
  /-- `UnknownOpcode(6)` (R57, R63): a word whose tag is 6. -/
  | unknownOpcode6
  /-- `UnknownOpcode(8)` (R57, R63): a word whose tag is 8. -/
  | unknownOpcode8
  /-- `UnknownOpcode(9)` (R57, R63): a word whose tag is 9. -/
  | unknownOpcode9
  /-- `UnknownOpcode(10)` (R57, R63): a word whose tag is 10. -/
  | unknownOpcode10
  /-- `UnknownOpcode(11)` (R57, R63): a word whose tag is 11. -/
  | unknownOpcode11
  /-- `UnknownOpcode(12)` (R57, R63): a word whose tag is 12. -/
  | unknownOpcode12
  /-- `UnknownOpcode(13)` (R57, R63): a word whose tag is 13. -/
  | unknownOpcode13
  /-- `UnknownOpcode(14)` (R57, R63): a word whose tag is 14. -/
  | unknownOpcode14
  /-- `UnknownOpcode(15)` (R57, R63): a word whose tag is 15. -/
  | unknownOpcode15
  /-- `UnknownOpcode(16)` (R57, R63): a word whose tag is 16. -/
  | unknownOpcode16
  /-- `UnknownOpcode(17)` (R57, R63): a word whose tag is 17. -/
  | unknownOpcode17
  /-- `UnknownOpcode(18)` (R57, R63): a word whose tag is 18. -/
  | unknownOpcode18
  /-- `UnknownOpcode(21)` (R57, R63): a word whose tag is 21. -/
  | unknownOpcode21
  /-- `UnknownOpcode(22)` (R57, R63): a word whose tag is 22. -/
  | unknownOpcode22
  /-- `UnknownOpcode(23)` (R57, R63): a word whose tag is 23. -/
  | unknownOpcode23
  /-- `UnknownOpcode(24)` (R57, R63): a word whose tag is 24. -/
  | unknownOpcode24
  /-- `UnknownOpcode(25)` (R57, R63): a word whose tag is 25. -/
  | unknownOpcode25
  /-- `UnknownOpcode(26)` (R57, R63): a word whose tag is 26. -/
  | unknownOpcode26
  /-- `UnknownOpcode(27)` (R57, R63): a word whose tag is 27. -/
  | unknownOpcode27
  /-- `UnknownOpcode(28)` (R57, R63): a word whose tag is 28. -/
  | unknownOpcode28
  /-- `UnknownOpcode(29)` (R57, R63): a word whose tag is 29. -/
  | unknownOpcode29
  /-- `UnknownOpcode(30)` (R57, R63): a word whose tag is 30. -/
  | unknownOpcode30
  /-- `UnknownOpcode(31)` (R57, R63): a word whose tag is 31. -/
  | unknownOpcode31
deriving DecidableEq, Repr

/-- The input of packing (R69, R131): one of the four variants with its named integer fields. A field may be of any
magnitude, and negative too (R6, decision D12): packing masks it. There is no case for `UnknownOpcode`: the pack port
cannot be asked to pack one. -/
inductive Record where
  /-- `load_const` -/
  | loadConst (address constant : Int)
  /-- `read` -/
  | read (dstAddr srcAddr : Int)
  /-- `write` -/
  | write (srcAddr offset baseAddr : Int)
  /-- `max` -/
  | max (addrB addrC addrD : Int)
deriving DecidableEq, Repr

/-- Why the byte decoder gives no outcome. Unpacking a whole word cannot fail (R61). -/
inductive DecodeReject where
  /-- Fewer than 7 bytes are left, this many: a fragment is not a word (R67). Raised by `decode`. Safe: R67 says that
  these bytes are never decoded. -/
  | fragment (length : Nat)
deriving DecidableEq, Repr

end Sys2Proof
end

