-- ==== Sys2Proof/WellFormed.lean ====
section
/-! DEFINITION. The checks on syntax: which records fit their fields, and which decode outcomes are instructions. -/

namespace Sys2Proof

/-- `v` is a value that an unsigned field of `n` bits holds (R7, R59: "field widths are authoritative upper bounds"). -/
def fitsField (n : Nat) (v : Int) : Bool := decide (0 ≤ v ∧ v < 2 ^ n)

/-- Every field of the record fits its declared width (R53 to R56), the condition of the round trip R65. Packing takes
the other records too, and truncates them (R59). -/
def Record.wellFormed : Record → Bool
  | .loadConst address constant => fitsField 16 address && fitsField 20 constant
  | .read dstAddr srcAddr => fitsField 16 dstAddr && fitsField 16 srcAddr
  | .write srcAddr offset baseAddr => fitsField 16 srcAddr && fitsField 5 offset && fitsField 16 baseAddr
  | .max addrB addrC addrD => fitsField 16 addrB && fitsField 16 addrC && fitsField 16 addrD

/-- The outcome is an instruction, that is one of the four variants (R63): these and no others can be packed. The
fields of an `Instr` fit by their types. -/
def Instr.wellFormed : Instr → Bool
  | .loadConst _ _ => true
  | .read _ _ => true
  | .write _ _ _ => true
  | .max _ _ _ => true
  | .unknownOpcode0 => false
  | .unknownOpcode1 => false
  | .unknownOpcode2 => false
  | .unknownOpcode4 => false
  | .unknownOpcode5 => false
  | .unknownOpcode6 => false
  | .unknownOpcode8 => false
  | .unknownOpcode9 => false
  | .unknownOpcode10 => false
  | .unknownOpcode11 => false
  | .unknownOpcode12 => false
  | .unknownOpcode13 => false
  | .unknownOpcode14 => false
  | .unknownOpcode15 => false
  | .unknownOpcode16 => false
  | .unknownOpcode17 => false
  | .unknownOpcode18 => false
  | .unknownOpcode21 => false
  | .unknownOpcode22 => false
  | .unknownOpcode23 => false
  | .unknownOpcode24 => false
  | .unknownOpcode25 => false
  | .unknownOpcode26 => false
  | .unknownOpcode27 => false
  | .unknownOpcode28 => false
  | .unknownOpcode29 => false
  | .unknownOpcode30 => false
  | .unknownOpcode31 => false

end Sys2Proof
end

