-- ==== Sys2Proof/Decode.lean ====
section
/-! DEFINITION. The Instruction Codec: masking, fields and bytes of a word, unpacking (`decodeWord`, `decode`), packing
(`encodeWord`, `encode`), and the program format. -/

namespace Sys2Proof

/-! ### Masking, fields, bytes -/

/-- `mask_N(v)` (R6): the low `n` bits of `v`, `v mod 2^n`; for a negative `v` the floor remainder (decision D12). -/
def mask (n : Nat) (v : Int) : BitVec n := BitVec.ofNat n (v % (2 : Int) ^ n).toNat

/-- The field "at offset `lo` with width `n`" of a word, `w[lo+n-1:lo]` (R5, R64). -/
def fieldOf (w : Word) (lo n : Nat) : BitVec n := w.extractLsb' lo n

/-- The opcode tag, `w[4:0]` (R52). -/
def tagOf (w : Word) : Tag := fieldOf w 0 5

/-- A word as its 7 bytes in stream order, byte `k` being `w[8k+7:8k]` (R51). -/
def bytesOfWord (w : Word) : List Byte :=
  [fieldOf w 0 8, fieldOf w 8 8, fieldOf w 16 8, fieldOf w 24 8, fieldOf w 32 8, fieldOf w 40 8, fieldOf w 48 8]

/-- The word whose bytes in stream order are `b0` to `b6`, little-endian (R31, R51, R61). -/
def wordOfBytes (b0 b1 b2 b3 b4 b5 b6 : Byte) : Word :=
  b0.setWidth 56 ||| b1.setWidth 56 <<< 8 ||| b2.setWidth 56 <<< 16 ||| b3.setWidth 56 <<< 24
    ||| b4.setWidth 56 <<< 32 ||| b5.setWidth 56 <<< 40 ||| b6.setWidth 56 <<< 48

/-! ### Unpacking -/

/-- The outcome `UnknownOpcode(tag)` of an unknown tag (R63). `decodeWord` calls it for the 28 unknown tags only; tag 31
is the last of them, and the four known tags, for which it means nothing, share its line. -/
def unknownOutcome (tag : Tag) : Instr :=
  match tag.toNat with
  | 0 => .unknownOpcode0
  | 1 => .unknownOpcode1
  | 2 => .unknownOpcode2
  | 4 => .unknownOpcode4
  | 5 => .unknownOpcode5
  | 6 => .unknownOpcode6
  | 8 => .unknownOpcode8
  | 9 => .unknownOpcode9
  | 10 => .unknownOpcode10
  | 11 => .unknownOpcode11
  | 12 => .unknownOpcode12
  | 13 => .unknownOpcode13
  | 14 => .unknownOpcode14
  | 15 => .unknownOpcode15
  | 16 => .unknownOpcode16
  | 17 => .unknownOpcode17
  | 18 => .unknownOpcode18
  | 21 => .unknownOpcode21
  | 22 => .unknownOpcode22
  | 23 => .unknownOpcode23
  | 24 => .unknownOpcode24
  | 25 => .unknownOpcode25
  | 26 => .unknownOpcode26
  | 27 => .unknownOpcode27
  | 28 => .unknownOpcode28
  | 29 => .unknownOpcode29
  | 30 => .unknownOpcode30
  | _ => .unknownOpcode31

/-- Unpacking (R61): total on all `2^56` words. The tag alone selects the variant (R52, R57); the bits that belong to no
field are not examined (R62). -/
def decodeWord (w : Word) : Instr :=
  if tagOf w = 19#5 then .loadConst (fieldOf w 5 16) (fieldOf w 21 20)
  else if tagOf w = 3#5 then .read (fieldOf w 5 16) (fieldOf w 21 16)
  else if tagOf w = 20#5 then .write (fieldOf w 5 16) (fieldOf w 21 5) (fieldOf w 26 16)
  else if tagOf w = 7#5 then .max (fieldOf w 5 16) (fieldOf w 21 16) (fieldOf w 37 16)
  else unknownOutcome (tagOf w)

/-- The first word of a byte sequence unpacked, and the bytes after it; a fragment is rejected by name (R61, R67). -/
def decode : List Byte → Except DecodeReject (Instr × List Byte)
  | b0 :: b1 :: b2 :: b3 :: b4 :: b5 :: b6 :: rest => .ok (decodeWord (wordOfBytes b0 b1 b2 b3 b4 b5 b6), rest)
  | fragment => .error (.fragment fragment.length)

/-- The words of a program, in order (R67): its trailing fragment, if any, is none of them. -/
def programWords : List Byte → List Word
  | b0 :: b1 :: b2 :: b3 :: b4 :: b5 :: b6 :: rest => wordOfBytes b0 b1 b2 b3 b4 b5 b6 :: programWords rest
  | _ => []

/-! ### Packing -/

/-- Packing to a word (R58): the tag and the masked fields, each shifted to its offset, are put together by OR in an
accumulator that starts at zero; an oversized input is truncated and never spills (R59). Total. -/
def encodeWord : Record → Word
  | .loadConst address constant =>
    19#56 ||| (mask 16 address).setWidth 56 <<< 5 ||| (mask 20 constant).setWidth 56 <<< 21
  | .read dstAddr srcAddr =>
    3#56 ||| (mask 16 dstAddr).setWidth 56 <<< 5 ||| (mask 16 srcAddr).setWidth 56 <<< 21
  | .write srcAddr offset baseAddr =>
    20#56 ||| (mask 16 srcAddr).setWidth 56 <<< 5 ||| (mask 5 offset).setWidth 56 <<< 21
      ||| (mask 16 baseAddr).setWidth 56 <<< 26
  | .max addrB addrC addrD =>
    7#56 ||| (mask 16 addrB).setWidth 56 <<< 5 ||| (mask 16 addrC).setWidth 56 <<< 21
      ||| (mask 16 addrD).setWidth 56 <<< 37

/-- Packing to 7 bytes (R58): the word, serialised little-endian (R51). -/
def encode (r : Record) : List Byte := bytesOfWord (encodeWord r)

/-- The instruction a record stands for once its fields are masked: what R65 says the round trip gives. -/
def Record.truncated : Record → Instr
  | .loadConst address constant => .loadConst (mask 16 address) (mask 20 constant)
  | .read dstAddr srcAddr => .read (mask 16 dstAddr) (mask 16 srcAddr)
  | .write srcAddr offset baseAddr => .write (mask 16 srcAddr) (mask 5 offset) (mask 16 baseAddr)
  | .max addrB addrC addrD => .max (mask 16 addrB) (mask 16 addrC) (mask 16 addrD)

/-- The record of an instruction; an `UnknownOpcode` outcome has none (R63). -/
def Instr.record : Instr → Option Record
  | .loadConst address constant => some (.loadConst address.toNat constant.toNat)
  | .read dstAddr srcAddr => some (.read dstAddr.toNat srcAddr.toNat)
  | .write srcAddr offset baseAddr => some (.write srcAddr.toNat offset.toNat baseAddr.toNat)
  | .max addrB addrC addrD => some (.max addrB.toNat addrC.toNat addrD.toNat)
  | .unknownOpcode0 => none
  | .unknownOpcode1 => none
  | .unknownOpcode2 => none
  | .unknownOpcode4 => none
  | .unknownOpcode5 => none
  | .unknownOpcode6 => none
  | .unknownOpcode8 => none
  | .unknownOpcode9 => none
  | .unknownOpcode10 => none
  | .unknownOpcode11 => none
  | .unknownOpcode12 => none
  | .unknownOpcode13 => none
  | .unknownOpcode14 => none
  | .unknownOpcode15 => none
  | .unknownOpcode16 => none
  | .unknownOpcode17 => none
  | .unknownOpcode18 => none
  | .unknownOpcode21 => none
  | .unknownOpcode22 => none
  | .unknownOpcode23 => none
  | .unknownOpcode24 => none
  | .unknownOpcode25 => none
  | .unknownOpcode26 => none
  | .unknownOpcode27 => none
  | .unknownOpcode28 => none
  | .unknownOpcode29 => none
  | .unknownOpcode30 => none
  | .unknownOpcode31 => none

/-- `encode(decode(w))` of R66 needs packing of a decode outcome: the word of an instruction, and nothing for an
`UnknownOpcode` outcome, for which it "is not defined". -/
def encodeInstr (i : Instr) : Option Word := i.record.map encodeWord

/-- The opcode tag of an outcome (R57); `UnknownOpcode(tag)` carries its tag (R63). -/
def Instr.tag : Instr → Tag
  | .loadConst _ _ => 19#5
  | .read _ _ => 3#5
  | .write _ _ _ => 20#5
  | .max _ _ _ => 7#5
  | .unknownOpcode0 => 0#5
  | .unknownOpcode1 => 1#5
  | .unknownOpcode2 => 2#5
  | .unknownOpcode4 => 4#5
  | .unknownOpcode5 => 5#5
  | .unknownOpcode6 => 6#5
  | .unknownOpcode8 => 8#5
  | .unknownOpcode9 => 9#5
  | .unknownOpcode10 => 10#5
  | .unknownOpcode11 => 11#5
  | .unknownOpcode12 => 12#5
  | .unknownOpcode13 => 13#5
  | .unknownOpcode14 => 14#5
  | .unknownOpcode15 => 15#5
  | .unknownOpcode16 => 16#5
  | .unknownOpcode17 => 17#5
  | .unknownOpcode18 => 18#5
  | .unknownOpcode21 => 21#5
  | .unknownOpcode22 => 22#5
  | .unknownOpcode23 => 23#5
  | .unknownOpcode24 => 24#5
  | .unknownOpcode25 => 25#5
  | .unknownOpcode26 => 26#5
  | .unknownOpcode27 => 27#5
  | .unknownOpcode28 => 28#5
  | .unknownOpcode29 => 29#5
  | .unknownOpcode30 => 30#5
  | .unknownOpcode31 => 31#5

/-- How many low bits of a word with this tag belong to the tag or to a field (R53 to R56, R60): the bits from here up
to bit 55 are packed as 0 and ignored by unpacking. For an unknown tag only the tag is looked at (R63). -/
def usedBits (tag : Tag) : Nat :=
  if tag = 19#5 then 41 else if tag = 3#5 then 37 else if tag = 20#5 then 42 else if tag = 7#5 then 53 else 5

/-- The program producer's side of R67: every record packed in order and the results concatenated. -/
def assemble : List Record → List Byte
  | [] => []
  | r :: rs => encode r ++ assemble rs

/-- What `decodeTableWord` and `State.withFetchWord` take as the 7 bytes of an instruction: the low `nbits` bits of `w`,
every bit above them 0, laid out little-endian (R51). -/
def tableBytes (nbits w : Nat) : List Byte := bytesOfWord (BitVec.ofNat 56 (w % 2 ^ nbits))

/-- The instruction this decoder reads from a word numbered as the opcode table numbers it. -/
def decodeTableWord (nbits w : Nat) : Option Instr :=
  match decode (tableBytes nbits w) with
  | .ok (i, _) => some i
  | .error _ => none

end Sys2Proof
end

