-- ==== Sys2Proof/Config.lean ====
section
/-! DEFINITION. The constants of the hardware (R4), the capacity the model's reset state is given, and the free values. -/

namespace Sys2Proof

/-- `WORD_BYTES` (R4, R50): every word is 7 bytes. -/
abbrev Config.wordBytes : Nat := 7

/-- The largest effective address an instruction can name (R37): 65535 + 31. -/
abbrev Config.maxEffectiveAddress : Nat := 65566

/-- The least `CELL_BITS` a run may have (R4, R15). -/
abbrev Config.minCellBits : Nat := 20

/-- DESIGN CHOICE (log entry 2), unsafe: the capacity of the memory in `State.reset`. The spec leaves `CAPACITY` open
(R4, decision D5): the host supplies it for every run. 65567 is the least capacity at which no instruction can fault
(R173). Every statement about a run takes its memory, hence its capacity, as an argument. -/
def Config.resetCapacity : Nat := 65567

/-- FREE VALUE (log entry 7): the start that a snapshot reports for an empty range, given the requested start and end
and the capacity. "not fixed by the source and not by this spec" (R142, U13). -/
opaque Config.emptyRangeStart : Int → Int → Nat → Int

/-- FREE VALUE (log entry 7): the end that a snapshot reports for an empty range (R142, U13). -/
opaque Config.emptyRangeEnd : Int → Int → Nat → Int

end Sys2Proof
end

