-- ==== Sys2Proof/Machine/State.lean ====
section
/-! DEFINITION. The state of the Execution Engine as plain data, the inputs of a run, reset, and the reasons a step
gives no next state. -/

namespace Sys2Proof.Machine

/-- The data memory (R14, R39): an array of `capacity` cells, held as the list of its non-zero cells, addresses strictly
rising. A cell holds a non-negative integer with no bound of its own (R14; R15 and decision D4 allow the unbounded
reading); one that is not listed holds 0, the value of a cell nothing has written (R23). `capacity` is `CAPACITY` (R4):
the length of the array, which R24 and R133 let the host choose only by the array it passes. -/
structure Memory where
  capacity : Nat
  cells : List (Nat × Nat)
deriving DecidableEq, Repr

/-- The exceptional conditions (R150, decision D14): two names, no codes. -/
inductive Cause where
  /-- Fatal, raised at execute time by a memory access (R151). -/
  | addressOutOfBounds
  /-- Recoverable, raised at decode time by an unknown tag (R152). -/
  | unknownOpcode
deriving DecidableEq, Repr

/-- One entry of the event log (R19): the instruction index of a word and its unknown tag. -/
structure Event where
  index : Nat
  tag : Tag
deriving DecidableEq, Repr

/-- The content of the fault record (R18): the cause, the offending effective address and the instruction index. -/
structure FaultRecord where
  cause : Cause
  addr : Nat
  index : Nat
deriving DecidableEq, Repr

/-- The state of the engine during a run (R10), and the parameters of the run (R4), which no step changes. -/
structure State where
  /-- `PROG` (R16): the bytes of the program store; `PROG_LEN` is its length. A parameter of the run. -/
  prog : List Byte
  /-- `CELL_BITS` (R4, R15): `none` is the unbounded choice. A parameter of the run. -/
  cellBits : Option Nat
  /-- `ip` (R12): the byte offset into `prog` of the next word. -/
  ip : Nat
  /-- `mem` (R14). -/
  mem : Memory
  /-- `n_exec` (R17): instructions completed. -/
  nExec : Nat
  /-- `n_max` (R17): `Max` instructions completed. -/
  nMax : Nat
  /-- `n_unknown` (R17): words with an unknown tag. -/
  nUnknown : Nat
  /-- `events` (R19): the unknown-opcode events, in program order. -/
  events : List Event
  /-- `fault` (R18): absent until an access is out of bounds. -/
  fault : Option FaultRecord
deriving DecidableEq, Repr

/-- What the host supplies before a run (R133, R172): the program, the memory array (and with it `CAPACITY`), and the
width of a cell (R4). -/
structure RunInput where
  prog : List Byte
  mem : Memory
  cellBits : Option Nat
deriving DecidableEq, Repr

/-- A memory array fresh from its creation: `capacity` cells, all 0 (R14, R133). -/
def createMemory (capacity : Nat) : Memory := { capacity := capacity, cells := [] }

/-- Reset is the start of a run (R23, R170): `ip` 0, the memory array as passed, counters 0, no events, no fault. -/
def State.start (input : RunInput) : State :=
  { prog := input.prog, cellBits := input.cellBits, ip := 0, mem := input.mem,
    nExec := 0, nMax := 0, nUnknown := 0, events := [], fault := none }

/-- The state after reset with nothing supplied: the start of a run with the empty program and a fresh memory. The
parameters of the run are the model's choice: no program (log entry 3), capacity `Config.resetCapacity` (log entry 2),
cells unbounded (log entry 4). -/
def State.reset : State :=
  State.start { prog := [], mem := createMemory Config.resetCapacity, cellBits := none }

/-- Why the machine has stopped with a fault. -/
inductive Fault where
  /-- Raised by `step`, never by an instruction: an earlier instruction of the run has set the fault record, which stays,
  and no step is enabled any more (R80, R157, R159). Safe: the hardware takes no step either. -/
  | runHalted (record : FaultRecord)
deriving DecidableEq, Repr

/-- Why the machine takes no step though there is no fault. -/
inductive Refusal where
  /-- Raised by an arm of `exec` whose instruction has no meaning yet. Safe. No arm raises it now. -/
  | notModelled (mnemonic : String)
  /-- Raised by `step`, never by an instruction: fewer than 7 bytes remain, the run has ended normally and there is no
  word to execute (R84). Safe: the hardware takes no step either. -/
  | runOver
deriving DecidableEq, Repr

end Sys2Proof.Machine
end

