-- ==== Sys2Proof/Machine/Ops.lean ====
section
/-! DEFINITION. The named operations: the cells of the memory array, the primitives `MemRead` and `MemWrite`, fetching,
completing an instruction, and taking the two exceptional conditions. -/

namespace Sys2Proof.Machine

/-! ### The memory array -/

/-- The canonical form of a memory: addresses strictly rising and inside the array, and no cell listed that holds 0. -/
abbrev Memory.wf (m : Memory) : Prop :=
  m.cells.Pairwise (fun c d => c.1 < d.1) ∧ ∀ c ∈ m.cells, c.1 < m.capacity ∧ c.2 ≠ 0

/-- Every cell holds a value below `2^n` (R15). -/
abbrev Memory.fits (m : Memory) (n : Nat) : Prop := ∀ c ∈ m.cells, c.2 < 2 ^ n

/-- The value listed for an address; 0 when none is. -/
def lookupCell : List (Nat × Nat) → Nat → Nat
  | [], _ => 0
  | c :: rest, a => if c.1 = a then c.2 else lookupCell rest a

/-- The list without its entries for an address. -/
def eraseCell (cells : List (Nat × Nat)) (a : Nat) : List (Nat × Nat) :=
  cells.filter fun c => c.1 ≠ a

/-- The list with an entry placed before the first larger address. -/
def insertCell : List (Nat × Nat) → Nat → Nat → List (Nat × Nat)
  | [], a, v => [(a, v)]
  | c :: rest, a, v => if a < c.1 then (a, v) :: c :: rest else c :: insertCell rest a v

/-- `mem[a]` (R8). -/
def Memory.cell (m : Memory) (a : Nat) : Nat := lookupCell m.cells a

/-- `mem[a] <- v` (R8): the whole cell is overwritten and no other cell changes. Storing 0 takes the entry out, which
keeps the canonical form. -/
def Memory.set (m : Memory) (a : Nat) (v : Nat) : Memory :=
  { m with cells := if v = 0 then eraseCell m.cells a else insertCell (eraseCell m.cells a) a v }

/-! ### The primitives that an instruction uses -/

/-- The outcome of a memory primitive (R8): it is done and gives a result, or it performs `raise AddressOutOfBounds(a)`,
after which nothing of the instruction happens. -/
inductive Access (α : Type) where
  | done (result : α)
  | raised (a : Nat)
deriving DecidableEq, Repr

/-- One access and then, unless it raised, the next (R8: a raise "abandons the current instruction at that point"). -/
def Access.andThen {α β : Type} : Access α → (α → Access β) → Access β
  | .done x, f => f x
  | .raised a, _ => .raised a

/-- `MemRead(a, 1)` (R35). -/
def memRead (m : Memory) (a : Nat) : Access Nat :=
  if a < m.capacity then .done (m.cell a) else .raised a

/-- `MemWrite(a, 1, v)` (R36). -/
def memWrite (m : Memory) (a : Nat) (v : Nat) : Access Memory :=
  if a < m.capacity then .done (m.set a v) else .raised a

/-! ### Fetching -/

/-- `Fetch(p)` (R81): the 7 bytes at offset `p` as a little-endian word; none when fewer than 7 bytes are there, where
no step is enabled (R80, R84). -/
def fetch (prog : List Byte) (p : Nat) : Option Word :=
  match prog.drop p with
  | b0 :: b1 :: b2 :: b3 :: b4 :: b5 :: b6 :: _ => some (wordOfBytes b0 b1 b2 b3 b4 b5 b6)
  | _ => none

/-- A step is enabled (R80): no fault is recorded and at least 7 bytes remain. -/
def State.enabled (s : State) : Bool := s.fault.isNone && decide (s.prog.length - s.ip ≥ Config.wordBytes)

/-- The instruction index of the word at `ip` (R18, decision D8). -/
def State.index (s : State) : Nat := s.ip / Config.wordBytes

/-! ### Completing an instruction, and the exceptional conditions -/

/-- Taking `AddressOutOfBounds(a)` (R157): the fault record is set and nothing else changes. No status or program counter
is saved elsewhere and there is no handler (R157); `ip` keeps the offset of the faulting word. -/
def State.takeAddressFault (s : State) (a : Nat) : State :=
  { s with fault := some { cause := .addressOutOfBounds, addr := a, index := s.index } }

/-- There is no return from a fault (R159): "The only continuation is a new run", which starts from reset with a program
and, if the host passes it, the memory array of the run before; its length is then the new capacity (R24).
DESIGN CHOICE (log entry 25), unsafe in such a state: there is no check that the run before is over. The spec puts a host
that starts a run while a step is still enabled outside itself (R46, R137, U11); here it would carry on the memory as it
stands in mid-run. -/
def State.nextRun (s : State) (prog : List Byte) : State :=
  State.start { prog := prog, mem := s.mem, cellBits := s.cellBits }

/-- The end of one of the four instructions (R80, R83, R87): with its write done, the memory is replaced, `ip` advances by
7, and the counters count it, `nMax` by `maxOps`; if an access raised, the fault is taken and nothing else changes. -/
def State.complete (s : State) (maxOps : Nat) : Access Memory → State
  | .done m => { s with mem := m, ip := s.ip + Config.wordBytes, nExec := s.nExec + 1, nMax := s.nMax + maxOps }
  | .raised a => s.takeAddressFault a

/-- Taking `UnknownOpcode(tag)` (R85, R158): the event is recorded and counted, and `ip` advances by 7. -/
def State.recordUnknown (s : State) (tag : Tag) : State :=
  { s with events := s.events ++ [{ index := s.index, tag := tag }], nUnknown := s.nUnknown + 1,
           ip := s.ip + Config.wordBytes }

/-! ### Placing an instruction in the program store, from outside the machine -/

/-- The program with `bytes` at offset `p`, lengthened by zero bytes when it ends before `p`. -/
def placeBytes (prog : List Byte) (p : Nat) (bytes : List Byte) : List Byte :=
  prog.take p ++ List.replicate (p - prog.length) 0#8 ++ bytes ++ prog.drop (p + bytes.length)

end Sys2Proof.Machine
end

