-- ==== Sys2Proof/Machine/Operands.lean ====
section
/-! DEFINITION. The effective addresses of the operands: which cells an instruction accesses, and in which order. -/

namespace Sys2Proof.Machine

/-- The effective address of a direct operand (R64, R82): the address field is the cell index itself. -/
def directAddress (a : Addr) : Nat := a.toNat

/-- The address translator (R111): the sum of base and offset, a natural number up to 65566 that never wraps. -/
def writeTarget (offset : Offset) (baseAddr : Addr) : Nat := baseAddr.toNat + offset.toNat

/-- The value that `LoadConst` stores (R64, R100): the constant, zero-extended to the cell. -/
def immediateValue (constant : Constant) : Nat := constant.toNat

/-- The two kinds of access to the data memory port (R136). -/
inductive AccessKind where
  | load
  | store
deriving DecidableEq, Repr

/-- The accesses of an instruction to the data memory port in the order of its rule (R100, R105, R110, R117, R136), each
with its effective address. A word with an unknown tag accesses nothing (R85). -/
def accesses : Instr → List (AccessKind × Nat)
  | .loadConst address _ => [(.store, directAddress address)]
  | .read dstAddr srcAddr => [(.load, directAddress srcAddr), (.store, directAddress dstAddr)]
  | .write srcAddr offset baseAddr => [(.load, directAddress srcAddr), (.store, writeTarget offset baseAddr)]
  | .max addrB addrC addrD =>
    [(.load, directAddress addrB), (.load, directAddress addrD), (.store, directAddress addrC)]
  | .unknownOpcode0 => []
  | .unknownOpcode1 => []
  | .unknownOpcode2 => []
  | .unknownOpcode4 => []
  | .unknownOpcode5 => []
  | .unknownOpcode6 => []
  | .unknownOpcode8 => []
  | .unknownOpcode9 => []
  | .unknownOpcode10 => []
  | .unknownOpcode11 => []
  | .unknownOpcode12 => []
  | .unknownOpcode13 => []
  | .unknownOpcode14 => []
  | .unknownOpcode15 => []
  | .unknownOpcode16 => []
  | .unknownOpcode17 => []
  | .unknownOpcode18 => []
  | .unknownOpcode21 => []
  | .unknownOpcode22 => []
  | .unknownOpcode23 => []
  | .unknownOpcode24 => []
  | .unknownOpcode25 => []
  | .unknownOpcode26 => []
  | .unknownOpcode27 => []
  | .unknownOpcode28 => []
  | .unknownOpcode29 => []
  | .unknownOpcode30 => []
  | .unknownOpcode31 => []

/-- The first access that lies at or above the capacity: the address that `AddressOutOfBounds` reports (R156, decision
D6). -/
def firstOutOfBounds (capacity : Nat) (i : Instr) : Option Nat :=
  ((accesses i).map Prod.snd).find? fun a => decide (capacity ≤ a)

/-- The one exceptional condition that a word raises, if any (R150, R156). -/
def conditionOf (capacity : Nat) (i : Instr) : Option Cause :=
  if i.wellFormed then (firstOutOfBounds capacity i).map fun _ => .addressOutOfBounds else some .unknownOpcode

/-- The least capacity at which an instruction does not fault (R173): one more than its largest effective address. -/
def neededCapacity (i : Instr) : Nat := (accesses i).foldr (fun access n => Nat.max (access.2 + 1) n) 0

/-- The least sufficient capacity of a program, "read off the program bytes" (R115, R173). -/
def programCapacity (prog : List Byte) : Nat :=
  (programWords prog).foldr (fun w n => Nat.max (neededCapacity (decodeWord w)) n) 0

end Sys2Proof.Machine
end

