-- ==== Sys2Proof/Machine/LoadConst.lean ====
section
/-! DEFINITION. The meaning of `LoadConst`. -/

namespace Sys2Proof.Machine

/-- `LoadConst` (R100, R101): one write of the zero-extended constant. -/
def execLoadConst (address : Addr) (constant : Constant) (s : State) : Host.Outcome State Fault Refusal :=
  .next (s.complete 0 (memWrite s.mem (directAddress address) (immediateValue constant)))

end Sys2Proof.Machine
end

