-- ==== Sys2Proof/Machine/Flags.lean ====
section
/-! DEFINITION. The hardware has no flags, no condition codes and no predicates (R13): no instruction computes one. What
stands here is its one comparison, whose outcome is kept nowhere but in the value that `Max` stores. -/

namespace Sys2Proof.Machine

/-- The result of `Max` (R117, R120): `if b >= d then b else d`, an unsigned comparison of whole cells. -/
def maxCell (b d : Nat) : Nat := if b ≥ d then b else d

end Sys2Proof.Machine
end

