-- ==== Sys2Proof/Machine/Max.lean ====
section
/-! DEFINITION. The meaning of `Max`. -/

namespace Sys2Proof.Machine

/-- `Max` (R117, R119): the reads of `addrB` and `addrD`, then the write of the larger value to `addrC`, the middle field
(R118); it counts in `nMax` too (R87). -/
def execMax (addrB addrC addrD : Addr) (s : State) : Host.Outcome State Fault Refusal :=
  .next (s.complete 1 ((memRead s.mem (directAddress addrB)).andThen fun b =>
    (memRead s.mem (directAddress addrD)).andThen fun d =>
      memWrite s.mem (directAddress addrC) (maxCell b d)))

end Sys2Proof.Machine
end

