-- ==== Sys2Proof/Machine/Read.lean ====
section
/-! DEFINITION. The meaning of `Read`. -/

namespace Sys2Proof.Machine

/-- `Read` (R105, R106): the read of the source, then the write of the destination. -/
def execRead (dstAddr srcAddr : Addr) (s : State) : Host.Outcome State Fault Refusal :=
  .next (s.complete 0 ((memRead s.mem (directAddress srcAddr)).andThen fun v =>
    memWrite s.mem (directAddress dstAddr) v))

end Sys2Proof.Machine
end

