-- ==== Sys2Proof/Machine/Unknown.lean ====
section
/-! DEFINITION. The meaning of a word with an unknown tag, one definition for each of the 28 tags of the opcode table: all
are treated alike (R63, R68, R85), as a recorded no-op. -/

namespace Sys2Proof.Machine

/-- `UnknownOpcode(0)` (R85). -/
def execUnknownOpcode0 (s : State) : Host.Outcome State Fault Refusal := .next (s.recordUnknown 0#5)

/-- `UnknownOpcode(1)` (R85). -/
def execUnknownOpcode1 (s : State) : Host.Outcome State Fault Refusal := .next (s.recordUnknown 1#5)

/-- `UnknownOpcode(2)` (R85). -/
def execUnknownOpcode2 (s : State) : Host.Outcome State Fault Refusal := .next (s.recordUnknown 2#5)

/-- `UnknownOpcode(4)` (R85). -/
def execUnknownOpcode4 (s : State) : Host.Outcome State Fault Refusal := .next (s.recordUnknown 4#5)

/-- `UnknownOpcode(5)` (R85). -/
def execUnknownOpcode5 (s : State) : Host.Outcome State Fault Refusal := .next (s.recordUnknown 5#5)

/-- `UnknownOpcode(6)` (R85). -/
def execUnknownOpcode6 (s : State) : Host.Outcome State Fault Refusal := .next (s.recordUnknown 6#5)

/-- `UnknownOpcode(8)` (R85). -/
def execUnknownOpcode8 (s : State) : Host.Outcome State Fault Refusal := .next (s.recordUnknown 8#5)

/-- `UnknownOpcode(9)` (R85). -/
def execUnknownOpcode9 (s : State) : Host.Outcome State Fault Refusal := .next (s.recordUnknown 9#5)

/-- `UnknownOpcode(10)` (R85). -/
def execUnknownOpcode10 (s : State) : Host.Outcome State Fault Refusal := .next (s.recordUnknown 10#5)

/-- `UnknownOpcode(11)` (R85). -/
def execUnknownOpcode11 (s : State) : Host.Outcome State Fault Refusal := .next (s.recordUnknown 11#5)

/-- `UnknownOpcode(12)` (R85). -/
def execUnknownOpcode12 (s : State) : Host.Outcome State Fault Refusal := .next (s.recordUnknown 12#5)

/-- `UnknownOpcode(13)` (R85). -/
def execUnknownOpcode13 (s : State) : Host.Outcome State Fault Refusal := .next (s.recordUnknown 13#5)

/-- `UnknownOpcode(14)` (R85). -/
def execUnknownOpcode14 (s : State) : Host.Outcome State Fault Refusal := .next (s.recordUnknown 14#5)

/-- `UnknownOpcode(15)` (R85). -/
def execUnknownOpcode15 (s : State) : Host.Outcome State Fault Refusal := .next (s.recordUnknown 15#5)

/-- `UnknownOpcode(16)` (R85). -/
def execUnknownOpcode16 (s : State) : Host.Outcome State Fault Refusal := .next (s.recordUnknown 16#5)

/-- `UnknownOpcode(17)` (R85). -/
def execUnknownOpcode17 (s : State) : Host.Outcome State Fault Refusal := .next (s.recordUnknown 17#5)

/-- `UnknownOpcode(18)` (R85). -/
def execUnknownOpcode18 (s : State) : Host.Outcome State Fault Refusal := .next (s.recordUnknown 18#5)

/-- `UnknownOpcode(21)` (R85). -/
def execUnknownOpcode21 (s : State) : Host.Outcome State Fault Refusal := .next (s.recordUnknown 21#5)

/-- `UnknownOpcode(22)` (R85). -/
def execUnknownOpcode22 (s : State) : Host.Outcome State Fault Refusal := .next (s.recordUnknown 22#5)

/-- `UnknownOpcode(23)` (R85). -/
def execUnknownOpcode23 (s : State) : Host.Outcome State Fault Refusal := .next (s.recordUnknown 23#5)

/-- `UnknownOpcode(24)` (R85). -/
def execUnknownOpcode24 (s : State) : Host.Outcome State Fault Refusal := .next (s.recordUnknown 24#5)

/-- `UnknownOpcode(25)` (R85). -/
def execUnknownOpcode25 (s : State) : Host.Outcome State Fault Refusal := .next (s.recordUnknown 25#5)

/-- `UnknownOpcode(26)` (R85). -/
def execUnknownOpcode26 (s : State) : Host.Outcome State Fault Refusal := .next (s.recordUnknown 26#5)

/-- `UnknownOpcode(27)` (R85). -/
def execUnknownOpcode27 (s : State) : Host.Outcome State Fault Refusal := .next (s.recordUnknown 27#5)

/-- `UnknownOpcode(28)` (R85). -/
def execUnknownOpcode28 (s : State) : Host.Outcome State Fault Refusal := .next (s.recordUnknown 28#5)

/-- `UnknownOpcode(29)` (R85). -/
def execUnknownOpcode29 (s : State) : Host.Outcome State Fault Refusal := .next (s.recordUnknown 29#5)

/-- `UnknownOpcode(30)` (R85). -/
def execUnknownOpcode30 (s : State) : Host.Outcome State Fault Refusal := .next (s.recordUnknown 30#5)

/-- `UnknownOpcode(31)` (R85). -/
def execUnknownOpcode31 (s : State) : Host.Outcome State Fault Refusal := .next (s.recordUnknown 31#5)

end Sys2Proof.Machine
end

