-- ==== Sys2Proof/Machine/Write.lean ====
section
/-! DEFINITION. The meaning of `Write`. -/

namespace Sys2Proof.Machine

/-- `Write` (R110, R112): the read of the source, then the write of the cell at the address translator's sum (R111). -/
def execWrite (srcAddr : Addr) (offset : Offset) (baseAddr : Addr) (s : State) : Host.Outcome State Fault Refusal :=
  .next (s.complete 0 ((memRead s.mem (directAddress srcAddr)).andThen fun v =>
    memWrite s.mem (writeTarget offset baseAddr) v))

end Sys2Proof.Machine
end

