-- ==== Sys2Proof/Machine/Dispatch.lean ====
section
/-! DEFINITION. Dispatch (R82): an exhaustive match over the decode outcomes, one arm for each. -/

namespace Sys2Proof.Machine

def exec (i : Instr) (s : State) : Host.Outcome State Fault Refusal :=
  match i with
  | .loadConst address constant => Sys2Proof.Machine.execLoadConst address constant s
  | .read dstAddr srcAddr => Sys2Proof.Machine.execRead dstAddr srcAddr s
  | .write srcAddr offset baseAddr => Sys2Proof.Machine.execWrite srcAddr offset baseAddr s
  | .max addrB addrC addrD => Sys2Proof.Machine.execMax addrB addrC addrD s
  | .unknownOpcode0 => Sys2Proof.Machine.execUnknownOpcode0 s
  | .unknownOpcode1 => Sys2Proof.Machine.execUnknownOpcode1 s
  | .unknownOpcode2 => Sys2Proof.Machine.execUnknownOpcode2 s
  | .unknownOpcode4 => Sys2Proof.Machine.execUnknownOpcode4 s
  | .unknownOpcode5 => Sys2Proof.Machine.execUnknownOpcode5 s
  | .unknownOpcode6 => Sys2Proof.Machine.execUnknownOpcode6 s
  | .unknownOpcode8 => Sys2Proof.Machine.execUnknownOpcode8 s
  | .unknownOpcode9 => Sys2Proof.Machine.execUnknownOpcode9 s
  | .unknownOpcode10 => Sys2Proof.Machine.execUnknownOpcode10 s
  | .unknownOpcode11 => Sys2Proof.Machine.execUnknownOpcode11 s
  | .unknownOpcode12 => Sys2Proof.Machine.execUnknownOpcode12 s
  | .unknownOpcode13 => Sys2Proof.Machine.execUnknownOpcode13 s
  | .unknownOpcode14 => Sys2Proof.Machine.execUnknownOpcode14 s
  | .unknownOpcode15 => Sys2Proof.Machine.execUnknownOpcode15 s
  | .unknownOpcode16 => Sys2Proof.Machine.execUnknownOpcode16 s
  | .unknownOpcode17 => Sys2Proof.Machine.execUnknownOpcode17 s
  | .unknownOpcode18 => Sys2Proof.Machine.execUnknownOpcode18 s
  | .unknownOpcode21 => Sys2Proof.Machine.execUnknownOpcode21 s
  | .unknownOpcode22 => Sys2Proof.Machine.execUnknownOpcode22 s
  | .unknownOpcode23 => Sys2Proof.Machine.execUnknownOpcode23 s
  | .unknownOpcode24 => Sys2Proof.Machine.execUnknownOpcode24 s
  | .unknownOpcode25 => Sys2Proof.Machine.execUnknownOpcode25 s
  | .unknownOpcode26 => Sys2Proof.Machine.execUnknownOpcode26 s
  | .unknownOpcode27 => Sys2Proof.Machine.execUnknownOpcode27 s
  | .unknownOpcode28 => Sys2Proof.Machine.execUnknownOpcode28 s
  | .unknownOpcode29 => Sys2Proof.Machine.execUnknownOpcode29 s
  | .unknownOpcode30 => Sys2Proof.Machine.execUnknownOpcode30 s
  | .unknownOpcode31 => Sys2Proof.Machine.execUnknownOpcode31 s

end Sys2Proof.Machine
end

