-- ==== Sys2Proof/Machine/Step.lean ====
section
/-! DEFINITION. One step of the engine, and how a word is placed where the engine fetches it. -/

namespace Sys2Proof.Machine

/-- `Step` (R80): when it is enabled, it fetches, decodes and executes exactly one word. When it is not enabled the run is
over and there is no next state: halted by a recorded fault, or ended normally (R84). -/
def step (s : State) : Host.Outcome State Fault Refusal :=
  match s.fault with
  | some record => .fault (.runHalted record)
  | none =>
    match fetch s.prog s.ip with
    | none => .refused .runOver
    | some w => exec (decodeWord w) s

/-- The state with the instruction of the opcode table's word `w` stored at `ip`, so that the next step runs it. The fault
record is cleared, since no step is enabled while one stands (R80); log entry 8. -/
def State.withFetchWord (s : State) (nbits w : Nat) : State :=
  { s with prog := placeBytes s.prog s.ip (tableBytes nbits w), fault := none }

end Sys2Proof.Machine
end

