-- ==== Sys2Proof/Machine/HostInterface.lean ====
section
/-! DEFINITION. The host's side of a run (R130, R133, R134, R137): what it supplies, running to the end, what it reads
afterwards. The host has no move while a run is in progress. -/

namespace Sys2Proof.Machine

/-- A memory array whose cells the host has preset before the run (R133, the table of R137): fresh, then the listed
values stored in order. -/
def Memory.preset (capacity : Nat) (values : List (Nat × Nat)) : Memory :=
  values.foldl (fun m c => m.set c.1 c.2) (createMemory capacity)

/-- What a host may supply (R4, R15, R133, R172, decision D22): a memory array in canonical form whose every value fits a
cell, and a cell of at least 20 bits, or unbounded. -/
def RunInput.wellFormed (input : RunInput) : Bool :=
  decide input.mem.wf &&
    match input.cellBits with
    | none => true
    | some n => decide (Config.minCellBits ≤ n) && decide (input.mem.fits n)

/-- At most `fuel` steps, ending where none is enabled: the state the run has reached. -/
def runSteps : Nat → State → State
  | 0, s => s
  | fuel + 1, s =>
    match step s with
    | .next t => runSteps fuel t
    | .fault _ => s
    | .refused _ => s

/-- A whole run (R84, R133): from the start until no step is enabled, which takes at most `PROG_LEN div 7` steps (R92). -/
def execute (input : RunInput) : State := runSteps (input.prog.length / Config.wordBytes) (State.start input)

/-- The result of a run, as the host sees it (R93, R134). -/
structure RunResult where
  mem : Memory
  ip : Nat
  nExec : Nat
  nMax : Nat
  nUnknown : Nat
  events : List Event
  fault : Option FaultRecord
deriving DecidableEq, Repr

/-- What the host may read (R134): nothing while a step is enabled (R137), the result once the run is over. -/
def State.result (s : State) : Option RunResult :=
  if s.enabled then none
  else some { mem := s.mem, ip := s.ip, nExec := s.nExec, nMax := s.nMax, nUnknown := s.nUnknown,
              events := s.events, fault := s.fault }

/-- The instructions executed one after the other, none after a fault (R41, R160): a run as its list of decode outcomes
says it, with no program store and no fetching. -/
def execAll : List Instr → State → State
  | [], s => s
  | i :: rest, s =>
    match s.fault, exec i s with
    | none, .next t => execAll rest t
    | _, _ => s

end Sys2Proof.Machine
end

