-- ==== Sys2Proof/Machine/Reporter.lean ====
section
/-! DEFINITION. The Memory Snapshot Reporter (R140 to R144): the host's read-only view of the memory array. -/

namespace Sys2Proof.Machine

/-- One request (R140): an inclusive range, whose ends may be negative or beyond the capacity, or a bare address. -/
inductive SnapshotRequest where
  | range (start stop : Int)
  | cell (a : Int)
deriving DecidableEq, Repr

/-- One cell of a report (R142): its address, and its value twice. The two are the same number; how the hexadecimal one
is spelt is presentation and out of scope. -/
structure CellEntry where
  address : Nat
  decimal : Nat
  hexadecimal : Nat
deriving DecidableEq, Repr

/-- The report of one range (R142). -/
structure RangeReport where
  start : Int
  stop : Int
  size : Nat
  cells : List CellEntry
deriving DecidableEq, Repr

/-- A snapshot (R142). -/
structure SnapshotReport where
  capacity : Nat
  rangeCount : Nat
  ranges : List RangeReport
deriving DecidableEq, Repr

/-- A bare address is a range of length one (R140). -/
def SnapshotRequest.bounds : SnapshotRequest → Int × Int
  | .range start stop => (start, stop)
  | .cell a => (a, a)

/-- `start' = max(start, 0)` (R141). -/
def clampStart (start : Int) : Int := max start 0

/-- `end' = min(end, CAPACITY - 1)` (R141). -/
def clampStop (capacity : Nat) (stop : Int) : Int := min stop ((capacity : Int) - 1)

/-- The number of cells a clamped range holds (R142): `end' - start' + 1`, or 0 when `end' < start'`. -/
def rangeSize (start stop : Int) : Nat := (stop - start + 1).toNat

/-- The entries of `size` cells from an address on, in increasing order (R142). -/
def cellEntries (m : Memory) (start size : Nat) : List CellEntry :=
  (List.range size).map fun k =>
    { address := start + k, decimal := m.cell (start + k), hexadecimal := m.cell (start + k) }

/-- The report of a range given by its requested ends (R141, R142). What an empty range reports as its start and end is
a free value (log entry 7). -/
def reportRange (m : Memory) (start stop : Int) : RangeReport :=
  if clampStop m.capacity stop < clampStart start then
    { start := Config.emptyRangeStart start stop m.capacity, stop := Config.emptyRangeEnd start stop m.capacity,
      size := 0, cells := [] }
  else
    { start := clampStart start, stop := clampStop m.capacity stop,
      size := rangeSize (clampStart start) (clampStop m.capacity stop),
      cells := cellEntries m (clampStart start).toNat (rangeSize (clampStart start) (clampStop m.capacity stop)) }

/-- A snapshot of "one or more" ranges (R140, R142): every range is reported, empty ones too. None is merged with another
(decision D17), and the ranges stand in the order requested, which no rule says: both are in log entry 19. -/
def snapshot (m : Memory) (first : SnapshotRequest) (more : List SnapshotRequest) : SnapshotReport :=
  { capacity := m.capacity, rangeCount := (first :: more).length,
    ranges := (first :: more).map fun r => reportRange m r.bounds.1 r.bounds.2 }

/-- A snapshot may be taken only when no run is in progress (R144). -/
def State.snapshot (s : State) (first : SnapshotRequest) (more : List SnapshotRequest) : Option SnapshotReport :=
  if s.enabled then none else some (Sys2Proof.Machine.snapshot s.mem first more)

end Sys2Proof.Machine
end

