-- ==== Sys2Proof/Safety.lean ====
section
/-! DEFINITION. The terms that claims are stated in: what a store of one instruction looks like, the invariant of the
engine, what a safe run is. -/

namespace Sys2Proof.Machine

/-- `t` is `s` after an instruction that stored the value `v` to the cell at `a` (R36, R38, R83, R87), with its frame:
the cell reads as `v`, every other address reads as before, `ip` advances by 7, the instruction is counted, `nMax` by
`maxOps` (what is counted is decision D9, log entry 15), and everything else is as it was. -/
structure StoredCell (s t : State) (a : Nat) (v : Nat) (maxOps : Nat) : Prop where
  stored : memRead t.mem a = .done v
  others : ∀ b, b ≠ a → memRead t.mem b = memRead s.mem b
  capacity : t.mem.capacity = s.mem.capacity
  ip : t.ip = s.ip + 7
  nExec : t.nExec = s.nExec + 1
  nMax : t.nMax = s.nMax + maxOps
  nUnknown : t.nUnknown = s.nUnknown
  events : t.events = s.events
  fault : t.fault = s.fault
  prog : t.prog = s.prog
  cellBits : t.cellBits = s.cellBits

/-- The invariant of the engine: true at the start of every run with a well-formed input, and kept by every step. Its
clauses on the cell width, the counters, the events and the fault record rest on decisions D1 to D4 and D7 to D10 (log
entries 4, 10, 13, 15, 17), and the canonical form of the memory is the model's choice (log entry 5). -/
structure State.Inv (s : State) : Prop where
  /-- The memory is in canonical form. -/
  memory : s.mem.wf
  /-- The cell width is legal (R4). -/
  cellWidth : ∀ n, s.cellBits = some n → 20 ≤ n
  /-- Every value fits a cell (R15). -/
  cellsFit : ∀ n, s.cellBits = some n → s.mem.fits n
  /-- `ip` is a multiple of 7 (R12). -/
  ipAligned : s.ip % 7 = 0
  /-- `ip` never exceeds `PROG_LEN` (R12). -/
  ipInside : s.ip ≤ s.prog.length
  /-- Every word before `ip` is counted once (R17). -/
  counted : s.nExec + s.nUnknown = s.ip / 7
  /-- The `Max` operations are among the instructions executed (R17). -/
  maxCounted : s.nMax ≤ s.nExec
  /-- One event for each unknown word (R19, R85). -/
  eventsCounted : s.events.length = s.nUnknown
  /-- The events stand in program order (R19). -/
  eventsOrdered : s.events.Pairwise fun e f => e.index < f.index
  /-- Every event is about a word before `ip` whose tag is the unknown tag it records (R19, R20). -/
  eventsTrue : ∀ e ∈ s.events, e.index < s.ip / 7 ∧ e.tag ∉ [3#5, 7#5, 19#5, 20#5] ∧
    ∃ w, fetch s.prog (7 * e.index) = some w ∧ tagOf w = e.tag
  /-- A recorded fault is an `AddressOutOfBounds` at the word at `ip`, with an address that can be named and that no cell
  has (R18, R20). -/
  faultLegal : ∀ r, s.fault = some r → r.cause = .addressOutOfBounds ∧ s.mem.capacity ≤ r.addr ∧ r.addr ≤ 65566 ∧
    r.index = s.ip / 7

/-- A safe run: it ends normally, with no `AddressOutOfBounds` (R84). -/
def RunInput.safe (input : RunInput) : Prop := (execute input).fault = none

/-- A run in which no unknown word was executed: what decision D2 asks a claim about known words to say. -/
def RunInput.clean (input : RunInput) : Prop := (execute input).events = []

/-- Two states of one program that may differ in the contents of the memory and in nothing else: what R115 compares. -/
structure SameButCells (s t : State) : Prop where
  capacity : s.mem.capacity = t.mem.capacity
  prog : s.prog = t.prog
  ip : s.ip = t.ip
  nExec : s.nExec = t.nExec
  nMax : s.nMax = t.nMax
  nUnknown : s.nUnknown = t.nUnknown
  events : s.events = t.events
  fault : s.fault = t.fault

end Sys2Proof.Machine
end

