-- ==== Sys2Proof/Certificates/Slice0/Obligations.lean ====
section
/-! DEFINITION. The statements for the provers. "decision D<n>" names a choice of the spec's own (92_eei_decisions.md); a
statement about it says so. -/

open Sys2Proof Sys2Proof.Machine

/-! ### The memory primitives -/

/-- R35 (bounds check: decision D1): inside the array a read gives the cell, outside it raises with that address. The
bounds check is decision D1 (log entry 10). -/
def Obligations.ReadGivesCellOrRaises : Prop :=
  ∀ (m : Memory) (a : Nat), (a < m.capacity → memRead m a = .done (m.cell a)) ∧
    (m.capacity ≤ a → memRead m a = .raised a)

/-- R36: a write inside the array overwrites its cell and changes no other, and is idempotent; outside it raises and
there is no new memory. The bounds check, and so the clause that a write outside the array raises, is decision D1 (R8;
log entry 10). -/
def Obligations.StoreOverwritesOneCell : Prop :=
  ∀ (m : Memory) (a : Nat) (v : Nat),
    (a < m.capacity → ∃ m', memWrite m a v = .done m' ∧ m'.capacity = m.capacity ∧ memRead m' a = .done v ∧
      (∀ b, b ≠ a → memRead m' b = memRead m b) ∧ memWrite m' a v = .done m') ∧
    (m.capacity ≤ a → memWrite m a v = .raised a)

/-- The canonical form (log entry 5) makes memories that read alike equal as data. -/
def Obligations.MemoriesThatReadAlikeAreEqual : Prop :=
  ∀ m m' : Memory, m.wf → m'.wf → m.capacity = m'.capacity → (∀ a, memRead m a = memRead m' a) → m = m'

/-! ### The four instructions -/

/-- R100: `LoadConst` makes one access, the write, which overwrites the cell with the constant; frame in `StoredCell`.
What the counters count is decision D9 (log entry 15). -/
def Obligations.LoadConstStoresConstant : Prop :=
  ∀ (address : Addr) (constant : Constant) (s : State), directAddress address < s.mem.capacity →
    accesses (.loadConst address constant) = [(.store, directAddress address)] ∧
    ∃ t, exec (.loadConst address constant) s = .next t ∧
      StoredCell s t (directAddress address) constant.toNat 0

/-- R105: `Read` copies the source cell to the destination cell, in two accesses, and the source keeps its value. What
the counters count is decision D9 (log entry 15). -/
def Obligations.ReadCopiesCell : Prop :=
  ∀ (dstAddr srcAddr : Addr) (s : State), directAddress srcAddr < s.mem.capacity →
    directAddress dstAddr < s.mem.capacity →
    accesses (.read dstAddr srcAddr) = [(.load, directAddress srcAddr), (.store, directAddress dstAddr)] ∧
    ∃ t, exec (.read dstAddr srcAddr) s = .next t ∧
      StoredCell s t (directAddress dstAddr) (s.mem.cell (directAddress srcAddr)) 0 ∧
      memRead t.mem (directAddress srcAddr) = .done (s.mem.cell (directAddress srcAddr))

/-- R110: `Write` copies the source cell to the cell at the effective address, in two accesses, and the source keeps
its value. That the sum is a natural number that never wraps is decision D3 (R111; log entry 13), and what the counters
count is decision D9 (log entry 15). -/
def Obligations.WriteCopiesCellToSum : Prop :=
  ∀ (srcAddr : Addr) (offset : Offset) (baseAddr : Addr) (s : State), directAddress srcAddr < s.mem.capacity →
    writeTarget offset baseAddr < s.mem.capacity →
    writeTarget offset baseAddr = baseAddr.toNat + offset.toNat ∧
    accesses (.write srcAddr offset baseAddr) =
      [(.load, directAddress srcAddr), (.store, writeTarget offset baseAddr)] ∧
    ∃ t, exec (.write srcAddr offset baseAddr) s = .next t ∧
      StoredCell s t (writeTarget offset baseAddr) (s.mem.cell (directAddress srcAddr)) 0 ∧
      memRead t.mem (directAddress srcAddr) = .done (s.mem.cell (directAddress srcAddr))

/-- R117: `Max` reads both sources, then writes the larger value to `addrC`, in three accesses. The sources keep their
values unless one is the destination: `StoredCell` leaves every other address alone. That whole cells are compared
without a sign is decision D21 (R120; log entry 24), and what the counters count is decision D9 (log entry 15). -/
def Obligations.MaxStoresLargerCell : Prop :=
  ∀ (addrB addrC addrD : Addr) (s : State), directAddress addrB < s.mem.capacity →
    directAddress addrD < s.mem.capacity → directAddress addrC < s.mem.capacity →
    accesses (.max addrB addrC addrD) =
      [(.load, directAddress addrB), (.load, directAddress addrD), (.store, directAddress addrC)] ∧
    ∃ t, exec (.max addrB addrC addrD) s = .next t ∧
      StoredCell s t (directAddress addrC)
        (Nat.max (s.mem.cell (directAddress addrB)) (s.mem.cell (directAddress addrD))) 1

/-- R101, R106, R112, R119 with R157 (decisions D1, D6, D7): the checks of each instruction in access order; the first
that fails sets the fault record and changes nothing else. The index is decision D8 (log entries 10, 14, 15). -/
def Obligations.AddressFaultsInAccessOrder : Prop :=
  ∀ s : State,
    let faultAt := fun a : Nat =>
      (Host.Outcome.next
        { s with fault := some { cause := .addressOutOfBounds, addr := a, index := s.ip / 7 } } :
        Host.Outcome State Fault Refusal)
    (∀ address constant, s.mem.capacity ≤ directAddress address →
      exec (.loadConst address constant) s = faultAt (directAddress address)) ∧
    (∀ dstAddr srcAddr, s.mem.capacity ≤ directAddress srcAddr →
      exec (.read dstAddr srcAddr) s = faultAt (directAddress srcAddr)) ∧
    (∀ dstAddr srcAddr, directAddress srcAddr < s.mem.capacity → s.mem.capacity ≤ directAddress dstAddr →
      exec (.read dstAddr srcAddr) s = faultAt (directAddress dstAddr)) ∧
    (∀ srcAddr offset baseAddr, s.mem.capacity ≤ directAddress srcAddr →
      exec (.write srcAddr offset baseAddr) s = faultAt (directAddress srcAddr)) ∧
    (∀ srcAddr offset baseAddr, directAddress srcAddr < s.mem.capacity →
      s.mem.capacity ≤ writeTarget offset baseAddr →
      exec (.write srcAddr offset baseAddr) s = faultAt (writeTarget offset baseAddr)) ∧
    (∀ addrB addrC addrD, s.mem.capacity ≤ directAddress addrB →
      exec (.max addrB addrC addrD) s = faultAt (directAddress addrB)) ∧
    (∀ addrB addrC addrD, directAddress addrB < s.mem.capacity → s.mem.capacity ≤ directAddress addrD →
      exec (.max addrB addrC addrD) s = faultAt (directAddress addrD)) ∧
    (∀ addrB addrC addrD, directAddress addrB < s.mem.capacity → directAddress addrD < s.mem.capacity →
      s.mem.capacity ≤ directAddress addrC →
      exec (.max addrB addrC addrD) s = faultAt (directAddress addrC))

/-- R156 (decision D6), over all 32 outcomes: the first access at or above the capacity is the one reported; with no
such access the outcome executes and leaves the fault record alone. That an access outside the array faults, that only
the fault record changes and that the index is `ip` div 7 are decisions D1, D7 and D8 (log entries 10, 14, 15). With no
such access the advance is R83, which for an unknown tag, where no access is made, rests on R85 and decision D2 (log
entry 17). -/
def Obligations.FirstFailingAccessIsReported : Prop :=
  ∀ (i : Instr) (s : State),
    (∀ a, firstOutOfBounds s.mem.capacity i = some a → exec i s = .next
      { s with fault := some { cause := .addressOutOfBounds, addr := a, index := s.ip / 7 } }) ∧
    (firstOutOfBounds s.mem.capacity i = none → ∃ t, exec i s = .next t ∧ t.fault = s.fault ∧ t.ip = s.ip + 7)

/-- R156: a word raises at most one condition, and `conditionOf` names it: with `AddressOutOfBounds` the fault record
changes and no event is added, with `UnknownOpcode` an event is added and the fault record stays, with no condition
both stay. When an access faults and what a fault leaves as it was are decisions D1 and D7, that an unknown tag is
recorded as an event and the run goes on decisions D2 and D10, and the index in the event decision D8 (log entries 10,
15, 17). -/
def Obligations.OneConditionForEachWord : Prop :=
  ∀ (i : Instr) (s : State), s.fault = none → ∃ t, exec i s = .next t ∧
    match conditionOf s.mem.capacity i with
    | some .addressOutOfBounds => t.fault.isSome = true ∧ t.events = s.events
    | some .unknownOpcode => t.fault = none ∧ t.events = s.events ++ [{ index := s.ip / 7, tag := i.tag }]
    | none => t.fault = none ∧ t.events = s.events

/-- R37, R136: every effective address is at most 65566, only the target of `Write` can exceed 65535, and an
instruction makes at most two reads and then at most one write. That the target of `Write` does not wrap and so can
exceed 65535 is decision D3 (log entry 13). -/
def Obligations.AccessesAreBoundedAndOrdered : Prop :=
  ∀ i : Instr,
    (∀ x ∈ accesses i, x.2 ≤ 65566 ∧
      (65535 < x.2 → ∃ srcAddr offset baseAddr, i = .write srcAddr offset baseAddr ∧
        x = (.store, writeTarget offset baseAddr))) ∧
    ∃ loads stores, accesses i = loads ++ stores ∧ loads.length ≤ 2 ∧ stores.length ≤ 1 ∧
      (∀ x ∈ loads, x.1 = .load) ∧ ∀ x ∈ stores, x.1 = .store

/-- R111, R113 (d) and (e) (decision D3): the sum is not reduced modulo `2^16`. The state after a fault is R157 with
decisions D1, D7 and D8, and what a completed `Write` counts is decision D9 (log entries 10, 13, 15). -/
def Obligations.WriteTargetDoesNotWrap : Prop :=
  ∀ (srcAddr : Addr) (s : State), directAddress srcAddr < s.mem.capacity →
    (s.mem.capacity ≤ 65566 → exec (.write srcAddr 31#5 65535#16) s = .next
      { s with fault := some { cause := .addressOutOfBounds, addr := 65566, index := s.ip / 7 } }) ∧
    (65567 ≤ s.mem.capacity → ∃ t, exec (.write srcAddr 31#5 65535#16) s = .next t ∧
      StoredCell s t 65566 (s.mem.cell (directAddress srcAddr)) 0) ∧
    (s.mem.capacity ≤ 65536 → exec (.write srcAddr 1#5 65535#16) s = .next
      { s with fault := some { cause := .addressOutOfBounds, addr := 65536, index := s.ip / 7 } })

/-- R113 (a): with offset 0 `Write` does what `Read` does, on every state, faults included. The rule speaks of the
effect on memory; that the faults and the counters agree too rests on decisions D6 and D9 (log entries 14, 15). -/
def Obligations.WriteWithZeroOffsetIsRead : Prop :=
  ∀ (srcAddr dstAddr : Addr) (s : State), exec (.write srcAddr 0#5 dstAddr) s = exec (.read dstAddr srcAddr) s

/-- R107 (a), R113 (f), R121 (d): an instruction whose destination is its only source leaves the memory as it is, and
is counted all the same. What the counters count is decision D9 (log entry 15). -/
def Obligations.SelfCopyLeavesMemory : Prop :=
  ∀ s : State, s.mem.wf →
    (∀ a, directAddress a < s.mem.capacity →
      exec (.read a a) s = .next { s with ip := s.ip + 7, nExec := s.nExec + 1 } ∧
      exec (.max a a a) s = .next { s with ip := s.ip + 7, nExec := s.nExec + 1, nMax := s.nMax + 1 }) ∧
    (∀ a offset baseAddr, directAddress a < s.mem.capacity → writeTarget offset baseAddr = directAddress a →
      exec (.write a offset baseAddr) s = .next { s with ip := s.ip + 7, nExec := s.nExec + 1 })

/-- R121 (c): with both sources the same cell `Max` copies it as `Read` does, but is counted as a `Max`; where one
faults, so does the other, with the same record. That the same address is reported, and that a fault counts nothing,
rests on decisions D6, D7 and D9 (log entries 10, 14, 15). -/
def Obligations.MaxOfOneCellIsRead : Prop :=
  ∀ (a c : Addr) (s : State), ∃ t u, exec (.max a c a) s = .next t ∧ exec (.read c a) s = .next u ∧
    t = { u with nMax := t.nMax } ∧ t.nMax = s.nMax + (t.nExec - s.nExec)

/-- R120 (decision D21): exchanging the two sources changes nothing, when both are inside the array. Decision D21 is in
log entry 24. -/
def Obligations.MaxSourcesCommute : Prop :=
  ∀ (addrB addrC addrD : Addr) (s : State), directAddress addrB < s.mem.capacity →
    directAddress addrD < s.mem.capacity → exec (.max addrB addrC addrD) s = exec (.max addrD addrC addrB) s

/-- R41: a `Read` after a `LoadConst` of its source sees the constant; a `Read` before it sees the value from before, 0 in
a fresh memory. -/
def Obligations.InstructionOrderDeterminesVisibility : Prop :=
  ∀ (a dst : Addr) (constant : Constant) (s : State), directAddress a < s.mem.capacity →
    directAddress dst < s.mem.capacity → dst ≠ a →
    (∃ t u, exec (.loadConst a constant) s = .next t ∧ exec (.read dst a) t = .next u ∧
      memRead u.mem (directAddress dst) = .done constant.toNat) ∧
    (∃ t u, exec (.read dst a) s = .next t ∧ exec (.loadConst a constant) t = .next u ∧
      memRead u.mem (directAddress dst) = .done (s.mem.cell (directAddress a)) ∧
      (s.mem = createMemory s.mem.capacity → memRead u.mem (directAddress dst) = .done 0))

/-! ### Unknown tags -/

/-- R85 (decisions D2, D10): each of the 28 outcomes `UnknownOpcode(tag)` completes as a recorded no-op: the event is
appended and counted, `ip` advances by 7, and memory, the other counters, the fault record and the parameters stay. The
index is decision D8 and the counter decision D9 (log entries 15, 17). -/
def Obligations.UnknownTagIsRecordedNoOp : Prop :=
  ∀ s : State, ∀ p ∈ ([
   (.unknownOpcode0, 0#5), (.unknownOpcode1, 1#5), (.unknownOpcode2, 2#5), (.unknownOpcode4, 4#5),
   (.unknownOpcode5, 5#5), (.unknownOpcode6, 6#5), (.unknownOpcode8, 8#5), (.unknownOpcode9, 9#5),
   (.unknownOpcode10, 10#5), (.unknownOpcode11, 11#5), (.unknownOpcode12, 12#5), (.unknownOpcode13, 13#5),
   (.unknownOpcode14, 14#5), (.unknownOpcode15, 15#5), (.unknownOpcode16, 16#5), (.unknownOpcode17, 17#5),
   (.unknownOpcode18, 18#5), (.unknownOpcode21, 21#5), (.unknownOpcode22, 22#5), (.unknownOpcode23, 23#5),
   (.unknownOpcode24, 24#5), (.unknownOpcode25, 25#5), (.unknownOpcode26, 26#5), (.unknownOpcode27, 27#5),
   (.unknownOpcode28, 28#5), (.unknownOpcode29, 29#5), (.unknownOpcode30, 30#5), (.unknownOpcode31, 31#5)] : List (Instr × Tag)),
    exec p.1 s = .next { s with events := s.events ++ [{ index := s.ip / 7, tag := p.2 }],
                                nUnknown := s.nUnknown + 1, ip := s.ip + 7 }

/-! ### The codec -/

/-- R65: unpacking a packed record gives its variant with every field masked, and leaves the bytes after it; a record whose
fields fit comes back as it was. On non-negative fields this is the rule; that fields may be negative too is decision D12
and the model's choice (log entry 11), not the rule (R131). -/
def Obligations.UnpackOfPackIsTruncation : Prop :=
  ∀ (r : Record) (rest : List Byte), decode (encode r ++ rest) = .ok (r.truncated, rest) ∧
    (r.wellFormed = true → r.truncated.record = some r)

/-- R65 and R63 over all 32 outcomes: an instruction, with its operands at any value, packs to a word that unpacks to it;
an `UnknownOpcode` outcome cannot be packed. -/
def Obligations.EveryInstructionRoundTrips : Prop :=
  ∀ i : Instr, (encodeInstr i).map decodeWord = if i.wellFormed then some i else none

/-- R61: the 7 bytes, read as a little-endian number `w`, unpack to the variant that `w mod 32` selects, each field being
`w` shifted right by the field's offset and masked to its width; any other tag gives `UnknownOpcode(tag)`. -/
def Obligations.UnpackExtractsFields : Prop :=
  ∀ b0 b1 b2 b3 b4 b5 b6 : Byte,
    let w : Nat := b0.toNat + b1.toNat * 2 ^ 8 + b2.toNat * 2 ^ 16 + b3.toNat * 2 ^ 24 + b4.toNat * 2 ^ 32 +
      b5.toNat * 2 ^ 40 + b6.toNat * 2 ^ 48
    ∃ i, decode [b0, b1, b2, b3, b4, b5, b6] = .ok (i, []) ∧
      (w % 32 = 19 → i = .loadConst (BitVec.ofNat 16 (w / 2 ^ 5)) (BitVec.ofNat 20 (w / 2 ^ 21))) ∧
      (w % 32 = 3 → i = .read (BitVec.ofNat 16 (w / 2 ^ 5)) (BitVec.ofNat 16 (w / 2 ^ 21))) ∧
      (w % 32 = 20 → i = .write (BitVec.ofNat 16 (w / 2 ^ 5)) (BitVec.ofNat 5 (w / 2 ^ 21))
        (BitVec.ofNat 16 (w / 2 ^ 26))) ∧
      (w % 32 = 7 → i = .max (BitVec.ofNat 16 (w / 2 ^ 5)) (BitVec.ofNat 16 (w / 2 ^ 21))
        (BitVec.ofNat 16 (w / 2 ^ 37))) ∧
      (w % 32 ∉ [3, 7, 19, 20] → i.wellFormed = false ∧ i.tag = BitVec.ofNat 5 w)

/-- R58: a packed word is the sum of the tag and of every masked field times its power of two (the fields do not
overlap, so OR may be read as `+`); that the accumulator starts at zero is the spec's inference. On non-negative fields,
the only ones the pack port takes (R131), this is the rule; for a negative field it asserts the floor remainder, which is
decision D12 and log entry 11, not the rule. -/
def Obligations.PackSumsTagAndFields : Prop :=
  (∀ address constant : Int, ((encodeWord (.loadConst address constant)).toNat : Int) =
    19 + address % 2 ^ 16 * 2 ^ 5 + constant % 2 ^ 20 * 2 ^ 21) ∧
  (∀ dstAddr srcAddr : Int, ((encodeWord (.read dstAddr srcAddr)).toNat : Int) =
    3 + dstAddr % 2 ^ 16 * 2 ^ 5 + srcAddr % 2 ^ 16 * 2 ^ 21) ∧
  (∀ srcAddr offset baseAddr : Int, ((encodeWord (.write srcAddr offset baseAddr)).toNat : Int) =
    20 + srcAddr % 2 ^ 16 * 2 ^ 5 + offset % 2 ^ 5 * 2 ^ 21 + baseAddr % 2 ^ 16 * 2 ^ 26) ∧
  (∀ addrB addrC addrD : Int, ((encodeWord (.max addrB addrC addrD)).toNat : Int) =
    7 + addrB % 2 ^ 16 * 2 ^ 5 + addrC % 2 ^ 16 * 2 ^ 21 + addrD % 2 ^ 16 * 2 ^ 37)

/-- R66: packing what a word unpacks to gives the word with the bits that belong to no field cleared; it is not defined
for an unknown tag. That unpacking ignores these bits and packing writes them as 0 is decision D11 (log entry 12). -/
def Obligations.PackOfUnpackClearsUnusedBits : Prop :=
  ∀ w : Word, encodeInstr (decodeWord w) =
    if tagOf w ∈ [3#5, 7#5, 19#5, 20#5] then some (BitVec.ofNat 56 (w.toNat % 2 ^ usedBits (tagOf w))) else none

/-- R62, R63: two words unpack to the same outcome exactly when they agree on the tag and on the bits of its fields.
That unpacking ignores the other bits is decision D11 (log entry 12). -/
def Obligations.OnlyUsedBitsMatter : Prop :=
  ∀ w w' : Word, decodeWord w = decodeWord w' ↔
    tagOf w = tagOf w' ∧ w.toNat % 2 ^ usedBits (tagOf w) = w'.toNat % 2 ^ usedBits (tagOf w')

/-- R57, R63, R68: the tag alone says whether a word is an instruction, and every outcome carries the tag of its word. -/
def Obligations.TagSelectsOutcome : Prop :=
  ∀ w : Word, ((decodeWord w).wellFormed = true ↔ tagOf w ∈ [3#5, 7#5, 19#5, 20#5]) ∧
    (decodeWord w).tag = tagOf w

/-- R59: two records pack to the same bytes exactly when their masked fields agree, and masking drops every multiple of
the field's range. For negative values, which both clauses take in, this rests on the floor remainder of decision D12
(log entry 11), a choice of the spec's own (R6, R59) and not of its rules. -/
def Obligations.PackingTruncatesOversizedFields : Prop :=
  (∀ r r' : Record, encode r = encode r' ↔ r.truncated = r'.truncated) ∧
  ∀ (n : Nat) (v k : Int), mask n (v + k * 2 ^ n) = mask n v

/-- R6: masking is the remainder modulo `2^n`, for a natural number also the bitwise AND with `2^n - 1`; for a negative
number the floor remainder (decision D12). Decision D12 is in log entry 11. -/
def Obligations.MaskIsRemainder : Prop :=
  ∀ n : Nat, (∀ v : Int, ((mask n v).toNat : Int) = v - 2 ^ n * (v / 2 ^ n)) ∧
    ∀ v : Nat, (mask n v).toNat = v &&& (2 ^ n - 1)

/-- R60: a packed word is below 2 to the number of bits its format uses. That these bits are 0 is decision D11 (log
entry 12), and that a negative field is taken at all is decision D12 (log entry 11). -/
def Obligations.PackedWordsHaveZeroUnusedBits : Prop :=
  ∀ r : Record, (encodeWord r).toNat < 2 ^ usedBits r.truncated.tag

/-- R51: serialising a word and reading its bytes back are inverse to each other. -/
def Obligations.SerialisationIsInverse : Prop :=
  (∀ w : Word, fetch (bytesOfWord w) 0 = some w) ∧
  ∀ b0 b1 b2 b3 b4 b5 b6 : Byte, bytesOfWord (wordOfBytes b0 b1 b2 b3 b4 b5 b6) = [b0, b1, b2, b3, b4, b5, b6]

/-- R72, R103, R108, R122 and 90_conflicts.md C1: worked words of the spec, packed and unpacked. That the corrupted
bytes unpack though bits of no field are set is decision D11 (log entries 12, 18). -/
def Obligations.WorkedWordsPackAndUnpack : Prop :=
  encode (.loadConst 825 559) = [0x33, 0x67, 0xE0, 0x45, 0x00, 0x00, 0x00] ∧
  encode (.read 84 215) = [0x83, 0x0A, 0xE0, 0x1A, 0x00, 0x00, 0x00] ∧
  encode (.write 193 30 352) = [0x34, 0x18, 0xC0, 0x83, 0x05, 0x00, 0x00] ∧
  encode (.max 782 367 565) = [0xC7, 0x61, 0xE0, 0x2D, 0xA0, 0x46, 0x00] ∧
  decodeWord 0x45E06733 = .loadConst 825 559 ∧
  decodeWord 0x1AE00A83 = .read 84 215 ∧
  decodeWord 0x583C01834 = .write 193 30 352 ∧
  decodeWord 0x46A02DE061C7 = .max 782 367 565 ∧
  decodeWord 0xA0B6A00D806107 = .max 776 108 1461 ∧
  decodeWord 0xFFEEDDCCBBAA1F = .unknownOpcode31 ∧
  decodeWord 0 = .unknownOpcode0

/-- R67: only a fragment, fewer than 7 bytes, is rejected; a program has `PROG_LEN div 7` words, and word `j` is what is
fetched at byte `7j`. -/
def Obligations.ProgramIsItsWords : Prop :=
  (∀ (bytes : List Byte) (n : Nat), decode bytes = .error (.fragment n) ↔ bytes.length < 7 ∧ n = bytes.length) ∧
  (∀ prog : List Byte, (programWords prog).length = prog.length / 7) ∧
  ∀ (prog : List Byte) (j : Nat), (programWords prog)[j]? = fetch prog (7 * j)

/-- R67: the packed records, concatenated, are a program of 7 bytes each whose words unpack to them, masked. That a
field may be negative is decision D12 and the model's choice (log entry 11). -/
def Obligations.AssembledProgramUnpacksToItsRecords : Prop :=
  ∀ rs : List Record, (assemble rs).length = 7 * rs.length ∧
    (programWords (assemble rs)).map decodeWord = rs.map Record.truncated

/-! ### The step -/

/-- R81: where 7 bytes stand, fetching them gives the sum that the rule writes out; it has no other effect to state, being
a function of the program store and the offset alone. -/
def Obligations.FetchIsLittleEndian : Prop :=
  ∀ (prog : List Byte) (p : Nat), p + 7 ≤ prog.length → ∃ w, fetch prog p = some w ∧
    w.toNat = (prog.getD p 0#8).toNat + (prog.getD (p + 1) 0#8).toNat * 2 ^ 8 +
      (prog.getD (p + 2) 0#8).toNat * 2 ^ 16 + (prog.getD (p + 3) 0#8).toNat * 2 ^ 24 +
      (prog.getD (p + 4) 0#8).toNat * 2 ^ 32 + (prog.getD (p + 5) 0#8).toNat * 2 ^ 40 +
      (prog.getD (p + 6) 0#8).toNat * 2 ^ 48

/-- R80 to R82: with no fault recorded, a step is `exec` of the instruction that the bytes at `ip` decode to. -/
def Obligations.StepRunsTheDecodedInstruction : Prop :=
  ∀ (s : State) (i : Instr) (rest : List Byte), s.fault = none →
    decode (s.prog.drop s.ip) = .ok (i, rest) → step s = exec i s

/-- The model's own interface (log entry 8): a word placed by `withFetchWord` is what the next step runs, from any state. -/
def Obligations.StepRunsThePlacedWord : Prop :=
  ∀ (s : State) (nbits w : Nat), ∃ i, decodeTableWord nbits w = some i ∧
    step (s.withFetchWord nbits w) = exec i (s.withFetchWord nbits w)

/-- R80: there is a next state exactly when no fault is recorded and at least 7 bytes remain. What a step answers
otherwise is the model's choice (log entry 6): the standing fault, or that the run is over. That a recorded fault ends
the run is decisions D1 and D7 (log entry 10). That an unknown tag gives a next state is R85 and decision D2 (log entry
17). -/
def Obligations.StepIsEnabledExactlyInARun : Prop :=
  ∀ s : State, ((∃ t, step s = .next t) ↔ s.fault = none ∧ 7 ≤ s.prog.length - s.ip) ∧
    (∀ r, s.fault = some r → step s = .fault (.runHalted r)) ∧
    (s.fault = none → s.prog.length - s.ip < 7 → step s = .refused .runOver)

/-- R83 and R157 (decision D7): a step either advances `ip` by 7 with no fault recorded, or sets the fault record and
changes nothing else. That an access outside the array faults, the bound 65566 and the index are decisions D1, D3 and
D8 (log entries 10, 13, 15). That a step on an unknown tag advances is R85 and decision D2 (log entry 17). -/
def Obligations.StepAdvancesOrFaults : Prop :=
  ∀ s t : State, step s = .next t →
    (t.fault = none ∧ t.ip = s.ip + 7) ∨
    ∃ a, s.mem.capacity ≤ a ∧ a ≤ 65566 ∧
      t = { s with fault := some { cause := .addressOutOfBounds, addr := a, index := s.ip / 7 } }

/-- R85, R87 (decision D9): what each counter counts. Decision D9 is in log entry 15; that a fault leaves the counters
alone is decision D7 too (log entry 10). That an unknown tag is counted and the run goes on is R85 and decision D2 (log
entry 17). -/
def Obligations.StepCountsItsWord : Prop :=
  ∀ (s t : State) (w : Word), step s = .next t → fetch s.prog s.ip = some w →
    (t.fault = none →
      t.nExec = s.nExec + (if tagOf w ∈ [3#5, 7#5, 19#5, 20#5] then 1 else 0) ∧
      t.nMax = s.nMax + (if tagOf w = 7#5 then 1 else 0) ∧
      t.nUnknown = s.nUnknown + (if tagOf w ∈ [3#5, 7#5, 19#5, 20#5] then 0 else 1)) ∧
    (t.fault.isSome = true → t.nExec = s.nExec ∧ t.nMax = s.nMax ∧ t.nUnknown = s.nUnknown)

/-- R4, R16, R44: no step changes the program or another parameter of the run. That the program is a separate read-only
store and a parameter is decision D19; that the parameters stand in `State` is log entry 9. -/
def Obligations.StepKeepsParameters : Prop :=
  ∀ s t : State, step s = .next t →
    t.prog = s.prog ∧ t.mem.capacity = s.mem.capacity ∧ t.cellBits = s.cellBits

/-- R15: no instruction produces a value that does not fit, for any width of at least 20 bits. That a cell has a width
of at least 20 bits is decision D4 (log entry 4). -/
def Obligations.StepKeepsCellsBelowWidth : Prop :=
  ∀ (n : Nat) (s t : State), 20 ≤ n → s.mem.fits n → step s = .next t → t.mem.fits n

/-- The invariant of the engine (R10 to R20) is kept by every step. Its clauses on the fault record, the instruction
index, the counters and the events rest on decisions D1, D3 (the bound 65566), D7, D8, D9 and D10 (log entries 10, 13,
15), that on the cell width on decision D4, and the canonical form of the memory is the model's choice (log entry 5).
That a step on an unknown tag advances and is recorded is R85 and decision D2 (log entry 17). -/
def Obligations.StepKeepsInvariant : Prop :=
  ∀ s t : State, s.Inv → step s = .next t → t.Inv

/-! ### Reset -/

/-- R23, R170 (decision D23): the state at the start of a run, for every program, memory and cell width, and a memory
fresh from its creation reads 0 in every cell. The values of the counters, events and fault record are decisions D7,
D9, D10 and D23 (log entry 15). -/
def Obligations.StartOfRunState : Prop :=
  ∀ input : RunInput, State.start input =
    { prog := input.prog, cellBits := input.cellBits, ip := 0, mem := input.mem, nExec := 0, nMax := 0,
      nUnknown := 0, events := [], fault := none } ∧
    ∀ capacity a, a < capacity → memRead (createMemory capacity) a = .done 0

/-- The state after reset meets the invariant. Its program, capacity and cell width are the model's choice (log entries
2, 3, 4). The reset values of the counters, events and fault record are decisions D7, D9, D10 and D23 (log entry 15),
and the canonical form of the memory is log entry 5. -/
def Obligations.ResetMeetsInvariant : Prop := State.reset.Inv

/-- R133, R172: the start of a run on a well-formed input meets the invariant. What input is well formed is decisions
D4 and D22 (log entries 5, 22), and the values that a run starts with decisions D7, D9, D10 and D23 (log entry 15). -/
def Obligations.StartMeetsInvariant : Prop := ∀ input : RunInput, input.wellFormed = true → (State.start input).Inv

/-- R24, R171 (decision D23): of the seven components of the engine's state (R10) only the memory array, and with it
the capacity, comes into the next run; `ip`, the counters, the events and the fault start afresh. Nothing is said of
the cell width, a parameter and no state, which `nextRun` keeps (log entry 21). That it holds in mid-run states too is
the model's choice (log entry 25): the spec has no host that starts a run there. That the capacity is the array's
length is decision D5. -/
def Obligations.NextRunKeepsOnlyMemory : Prop :=
  ∀ (s : State) (prog : List Byte), (s.nextRun prog).mem = s.mem ∧ (s.nextRun prog).prog = prog ∧
    (s.nextRun prog).ip = 0 ∧ (s.nextRun prog).nExec = 0 ∧ (s.nextRun prog).nMax = 0 ∧
    (s.nextRun prog).nUnknown = 0 ∧ (s.nextRun prog).events = [] ∧ (s.nextRun prog).fault = none

/-! ### Whole runs -/

/-- R92: after `PROG_LEN div 7` steps no step is enabled: every run ends, and its result can be read (R134). That a
fault ends the run is decision D7 (log entry 10); `execute` is log entry 23. That a step on an unknown tag advances is
R85 and decision D2 (log entry 17). -/
def Obligations.EveryRunEnds : Prop :=
  ∀ input : RunInput, (execute input).enabled = false ∧ (execute input).result.isSome = true

/-- R84, R17: a run that ends normally ends at `7 * (PROG_LEN div 7)` and has counted every word. What the counters
count is decision D9 (log entry 15). That a run goes on after an unknown tag is decision D2 (log entry 17). -/
def Obligations.NormalEndCountsEveryWord : Prop :=
  ∀ input : RunInput, input.safe → (execute input).ip = 7 * (input.prog.length / 7) ∧
    (execute input).nExec + (execute input).nUnknown = input.prog.length / 7

/-- R134, R157 (decisions D7 and D8): the fault is precise: a halted run is in the state reached after the words before
the faulting one, with the fault record set and nothing else changed. That an access outside the array faults is
decision D1 (log entries 10, 15). -/
def Obligations.HaltedRunIsPrecise : Prop :=
  ∀ (input : RunInput) (r : FaultRecord), (execute input).fault = some r →
    (runSteps r.index (State.start input)).fault = none ∧
    (runSteps r.index (State.start input)).ip = 7 * r.index ∧
    execute input = { runSteps r.index (State.start input) with fault := some r } ∧
    r.cause = .addressOutOfBounds ∧ input.mem.capacity ≤ r.addr

/-- R80, R89: a run is its decoded words executed in order, each at most once: fetching from the store refines the list
of instructions. That nothing is executed after a fault is decision D7, and that a run goes on after an unknown tag
decision D2 (log entries 10, 17). -/
def Obligations.RunIsItsInstructionsInOrder : Prop :=
  ∀ input : RunInput, execute input = execAll ((programWords input.prog).map decodeWord) (State.start input)

/-- R19, R85 (decisions D8, D10; log entry 15): the event log of a run that ends normally lists the words with an
unknown tag, in program order, each with its index; it is empty exactly when every tag is known (what decision D2 asks
a claim to say). Of a halted run `HaltedRunIsPrecise` and the invariant speak. That a run goes on after an unknown word
is decision D2 (log entry 17). -/
def Obligations.EventsAreTheUnknownWordsInOrder : Prop :=
  ∀ input : RunInput, input.safe →
    (execute input).events = ((programWords input.prog).zipIdx.filter fun p =>
      decide (tagOf p.1 ∉ [3#5, 7#5, 19#5, 20#5])).map (fun p => { index := p.2, tag := tagOf p.1 }) ∧
    (input.clean ↔ ∀ w ∈ programWords input.prog, tagOf w ∈ [3#5, 7#5, 19#5, 20#5])

/-- R93: programs whose words unpack alike, whatever their unused bits and their trailing fragments, have the same
result. That unused bits are ignored is decision D11 (log entry 12). -/
def Obligations.UnusedBitsAndFragmentsAreInvisible : Prop :=
  ∀ (mem : Memory) (cellBits : Option Nat) (prog prog' : List Byte),
    (programWords prog).map decodeWord = (programWords prog').map decodeWord →
    (execute { prog := prog, mem := mem, cellBits := cellBits }).result =
      (execute { prog := prog', mem := mem, cellBits := cellBits }).result

/-- R115: whether and where a run faults, and everything else but the contents of the memory, does not depend on the
initial contents of the memory. -/
def Obligations.FaultsDoNotDependOnData : Prop :=
  ∀ (prog : List Byte) (mem mem' : Memory) (cellBits cellBits' : Option Nat), mem.capacity = mem'.capacity →
    SameButCells (execute { prog := prog, mem := mem, cellBits := cellBits })
      (execute { prog := prog, mem := mem', cellBits := cellBits' })

/-- R173: a run is safe exactly when the capacity is at least one more than the largest effective address of its
program. That a run faults at an address outside the array is decision D1, and that the sum of `Write` does not wrap
decision D3 (log entries 10, 13). An unknown tag makes no access and the run goes on (R85, decision D2, log entry 17).
-/
def Obligations.LeastSufficientCapacity : Prop :=
  ∀ input : RunInput, input.safe ↔ programCapacity input.prog ≤ input.mem.capacity

/-- R173: with 65567 cells no program faults, and with 65536 cells none that has no `Write`. That a run faults only at
an address outside the array is decision D1, and that the sum of `Write` reaches 65566 decision D3 (log entries 10,
13). An unknown tag makes no access (R85). -/
def Obligations.LargeMemoryNeverFaults : Prop :=
  ∀ input : RunInput, (65567 ≤ input.mem.capacity → input.safe) ∧
    (65536 ≤ input.mem.capacity → (∀ w ∈ programWords input.prog, tagOf w ≠ 20#5) → input.safe)

/-! ### The reporter -/

/-- R143: no emitted address lies outside the array; the source's example gives the cells 0 to 255. That these cells come in
increasing order is not R143's: R142 marks it as the spec's own reading (decision D17, log entry 19). -/
def Obligations.SnapshotStaysInsideMemory : Prop :=
  (∀ (m : Memory) (first : SnapshotRequest) (more : List SnapshotRequest),
    ∀ r ∈ (snapshot m first more).ranges, ∀ e ∈ r.cells, e.address < m.capacity) ∧
  ∀ m : Memory, m.capacity = 256 →
    (reportRange m (-5) 10000).start = 0 ∧ (reportRange m (-5) 10000).stop = 255 ∧
    (reportRange m (-5) 10000).size = 256 ∧
    (reportRange m (-5) 10000).cells.map CellEntry.address = List.range 256

/-- R141, R142 (decision D17): what a range reports. Nothing is said of the start and end of an empty range, which are
free values (log entry 7). Decision D17 is in log entry 19. -/
def Obligations.SnapshotReportsClampedRange : Prop :=
  ∀ (m : Memory) (start stop : Int),
    (max start 0 ≤ min stop ((m.capacity : Int) - 1) →
      (reportRange m start stop).start = max start 0 ∧
      (reportRange m start stop).stop = min stop ((m.capacity : Int) - 1) ∧
      ((reportRange m start stop).size : Int) = min stop ((m.capacity : Int) - 1) - max start 0 + 1 ∧
      (reportRange m start stop).cells.length = (reportRange m start stop).size ∧
      ∀ (k : Nat) (e : CellEntry), (reportRange m start stop).cells[k]? = some e →
        (e.address : Int) = max start 0 + k ∧ memRead m e.address = .done e.decimal ∧ e.hexadecimal = e.decimal) ∧
    (min stop ((m.capacity : Int) - 1) < max start 0 →
      (reportRange m start stop).size = 0 ∧ (reportRange m start stop).cells = [])

/-- R140, R142: a snapshot gives the capacity, the number of ranges requested, empty ones included, and the report of each
in order; a bare address is a range of length one. That the ranges are reported in the order requested and none is merged
with another is no rule's but a choice (log entry 19; decision D17 for the merging). -/
def Obligations.SnapshotReportsEveryRequest : Prop :=
  ∀ (m : Memory) (first : SnapshotRequest) (more : List SnapshotRequest),
    (snapshot m first more).capacity = m.capacity ∧
    (snapshot m first more).rangeCount = more.length + 1 ∧
    (snapshot m first more).ranges.length = more.length + 1 ∧
    (∀ start stop : Int, (snapshot m (.range start stop) more).ranges.head? = some (reportRange m start stop)) ∧
    (∀ a : Int, (snapshot m (.cell a) more).ranges.head? = some (reportRange m a a)) ∧
    (∀ next : SnapshotRequest, (snapshot m first (next :: more)).ranges =
      reportRange m first.bounds.1 first.bounds.2 :: (snapshot m next more).ranges)

/-- R134, R144: when the run is over the host reads the result and may take a snapshot. That it reads nothing while a step
is enabled is decision D18 (log entry 16): R137 calls it an assumption about the host, which the hardware does not
enforce. -/
def Obligations.HostReadsOnlyAfterTheRun : Prop :=
  ∀ (s : State) (first : SnapshotRequest) (more : List SnapshotRequest),
    (s.enabled = true → s.result = none ∧ s.snapshot first more = none) ∧
    (s.enabled = false → s.snapshot first more = some (snapshot s.mem first more) ∧
      s.result = some { mem := s.mem, ip := s.ip, nExec := s.nExec, nMax := s.nMax, nUnknown := s.nUnknown,
                        events := s.events, fault := s.fault })

/-! ### The opcode tags -/

/-- R57: 3 is `Read`, 7 is `Max`, 19 is `LoadConst` and 20 is `Write`; every other tag gives `UnknownOpcode(tag)`; and the
word under the mask `0x1F` decides it alone. -/
def Obligations.OpcodeTagsAreFixed : Prop :=
  ∀ w : Word,
    (w &&& 0x1F#56 = 3#56 ↔ ∃ dstAddr srcAddr, decodeWord w = .read dstAddr srcAddr) ∧
    (w &&& 0x1F#56 = 7#56 ↔ ∃ addrB addrC addrD, decodeWord w = .max addrB addrC addrD) ∧
    (w &&& 0x1F#56 = 19#56 ↔ ∃ address constant, decodeWord w = .loadConst address constant) ∧
    (w &&& 0x1F#56 = 20#56 ↔ ∃ srcAddr offset baseAddr, decodeWord w = .write srcAddr offset baseAddr) ∧
    ((decodeWord w).wellFormed = false ↔ w &&& 0x1F#56 ∉ [3#56, 7#56, 19#56, 20#56]) ∧
    ((decodeWord w).wellFormed = false → (decodeWord w).tag.setWidth 56 = w &&& 0x1F#56)
end

