-- ==== Sys2Proof/Laws/Decode.lean ====
section
/-! SUPPORT. The codec: the outcome that each tag selects, and the tag that each outcome carries. -/

namespace Sys2Proof

theorem decodeWord_loadConst {w : Word} (h : tagOf w = 19#5) :
    decodeWord w = .loadConst (fieldOf w 5 16) (fieldOf w 21 20) := by simp [decodeWord, h]

theorem decodeWord_read {w : Word} (h : tagOf w = 3#5) :
    decodeWord w = .read (fieldOf w 5 16) (fieldOf w 21 16) := by simp [decodeWord, h]

theorem decodeWord_write {w : Word} (h : tagOf w = 20#5) :
    decodeWord w = .write (fieldOf w 5 16) (fieldOf w 21 5) (fieldOf w 26 16) := by simp [decodeWord, h]

theorem decodeWord_max {w : Word} (h : tagOf w = 7#5) :
    decodeWord w = .max (fieldOf w 5 16) (fieldOf w 21 16) (fieldOf w 37 16) := by simp [decodeWord, h]

theorem decodeWord_unknown {w : Word} (h : tagOf w ∉ [3#5, 7#5, 19#5, 20#5]) :
    decodeWord w = unknownOutcome (tagOf w) := by
  simp only [List.mem_cons, List.not_mem_nil, or_false, not_or] at h
  simp [decodeWord, h]

/-- The outcome of an unknown tag is no instruction, and carries that tag (R63). -/
theorem unknownOutcome_spec : ∀ tag : Tag, tag ∉ [3#5, 7#5, 19#5, 20#5] →
    (unknownOutcome tag).wellFormed = false ∧ (unknownOutcome tag).tag = tag := by decide

/-- Unpacking gives one of five outcomes (R61). -/
theorem decodeWord_cases (w : Word) :
    (tagOf w = 19#5 ∧ decodeWord w = .loadConst (fieldOf w 5 16) (fieldOf w 21 20)) ∨
    (tagOf w = 3#5 ∧ decodeWord w = .read (fieldOf w 5 16) (fieldOf w 21 16)) ∨
    (tagOf w = 20#5 ∧ decodeWord w = .write (fieldOf w 5 16) (fieldOf w 21 5) (fieldOf w 26 16)) ∨
    (tagOf w = 7#5 ∧ decodeWord w = .max (fieldOf w 5 16) (fieldOf w 21 16) (fieldOf w 37 16)) ∨
    (tagOf w ∉ [3#5, 7#5, 19#5, 20#5] ∧ decodeWord w = unknownOutcome (tagOf w)) := by
  by_cases h1 : tagOf w = 19#5
  · exact .inl ⟨h1, decodeWord_loadConst h1⟩
  by_cases h2 : tagOf w = 3#5
  · exact .inr (.inl ⟨h2, decodeWord_read h2⟩)
  by_cases h3 : tagOf w = 20#5
  · exact .inr (.inr (.inl ⟨h3, decodeWord_write h3⟩))
  by_cases h4 : tagOf w = 7#5
  · exact .inr (.inr (.inr (.inl ⟨h4, decodeWord_max h4⟩)))
  · have h : tagOf w ∉ [3#5, 7#5, 19#5, 20#5] := by simp [h1, h2, h3, h4]
    exact .inr (.inr (.inr (.inr ⟨h, decodeWord_unknown h⟩)))

/-! ### Bytes of a word -/

theorem or_shiftLeft_eq_add (x y k : Nat) (h : y < 2 ^ k) : y ||| x <<< k = y + x * 2 ^ k := by
  rw [Nat.or_comm, ← Nat.shiftLeft_add_eq_or_of_lt h, Nat.shiftLeft_eq, Nat.add_comm]

theorem byte_shift_toNat (b : Byte) (k : Nat) (hk : k ≤ 48) : (b.setWidth 56 <<< k).toNat = b.toNat <<< k := by
  rw [BitVec.toNat_shiftLeft, BitVec.toNat_setWidth]
  have hb := b.isLt
  rw [Nat.mod_eq_of_lt (lt_of_lt_of_le hb (Nat.pow_le_pow_right (by omega) (by omega))), Nat.mod_eq_of_lt]
  rw [Nat.shiftLeft_eq, show 56 = 8 + 48 from rfl, Nat.pow_add]
  exact Nat.mul_lt_mul_of_lt_of_le hb (Nat.pow_le_pow_right (by omega) hk) (by positivity)

theorem or_of_bytes_eq_sum (a b c d e f g : Nat) (ha : a < 2 ^ 8) (hb : b < 2 ^ 8) (hc : c < 2 ^ 8) (hd : d < 2 ^ 8)
    (he : e < 2 ^ 8) (hf : f < 2 ^ 8) :
    a ||| b <<< 8 ||| c <<< 16 ||| d <<< 24 ||| e <<< 32 ||| f <<< 40 ||| g <<< 48 =
      a + b * 2 ^ 8 + c * 2 ^ 16 + d * 2 ^ 24 + e * 2 ^ 32 + f * 2 ^ 40 + g * 2 ^ 48 := by
  have h2 : a + b * 2 ^ 8 < 2 ^ 16 := by omega
  have h3 : a + b * 2 ^ 8 + c * 2 ^ 16 < 2 ^ 24 := by omega
  have h4 : a + b * 2 ^ 8 + c * 2 ^ 16 + d * 2 ^ 24 < 2 ^ 32 := by omega
  have h5 : a + b * 2 ^ 8 + c * 2 ^ 16 + d * 2 ^ 24 + e * 2 ^ 32 < 2 ^ 40 := by omega
  have h6 : a + b * 2 ^ 8 + c * 2 ^ 16 + d * 2 ^ 24 + e * 2 ^ 32 + f * 2 ^ 40 < 2 ^ 48 := by omega
  rw [or_shiftLeft_eq_add _ _ 8 ha, or_shiftLeft_eq_add _ _ 16 h2, or_shiftLeft_eq_add _ _ 24 h3,
    or_shiftLeft_eq_add _ _ 32 h4, or_shiftLeft_eq_add _ _ 40 h5, or_shiftLeft_eq_add _ _ 48 h6]

theorem wordOfBytes_toNat_or (b0 b1 b2 b3 b4 b5 b6 : Byte) : (wordOfBytes b0 b1 b2 b3 b4 b5 b6).toNat =
    b0.toNat ||| b1.toNat <<< 8 ||| b2.toNat <<< 16 ||| b3.toNat <<< 24 ||| b4.toNat <<< 32 ||| b5.toNat <<< 40
      ||| b6.toNat <<< 48 := by
  simp only [wordOfBytes, BitVec.toNat_or]
  rw [byte_shift_toNat b1 8 (by omega), byte_shift_toNat b2 16 (by omega), byte_shift_toNat b3 24 (by omega),
    byte_shift_toNat b4 32 (by omega), byte_shift_toNat b5 40 (by omega), byte_shift_toNat b6 48 (by omega),
    BitVec.toNat_setWidth_of_le (by omega)]

/-- The number that 7 bytes make (R31). The two sides are put together as terms: rewriting the goal makes the kernel
compare a product with a large power of two by counting. -/
theorem wordOfBytes_toNat (b0 b1 b2 b3 b4 b5 b6 : Byte) : (wordOfBytes b0 b1 b2 b3 b4 b5 b6).toNat =
    b0.toNat + b1.toNat * 2 ^ 8 + b2.toNat * 2 ^ 16 + b3.toNat * 2 ^ 24 + b4.toNat * 2 ^ 32 + b5.toNat * 2 ^ 40
      + b6.toNat * 2 ^ 48 :=
  (wordOfBytes_toNat_or b0 b1 b2 b3 b4 b5 b6).trans
    (or_of_bytes_eq_sum _ _ _ _ _ _ _ b0.isLt b1.isLt b2.isLt b3.isLt b4.isLt b5.isLt)

/-- The bytes of a word make the word again. -/
theorem wordOfBytes_fields (w : Word) :
    wordOfBytes (fieldOf w 0 8) (fieldOf w 8 8) (fieldOf w 16 8) (fieldOf w 24 8) (fieldOf w 32 8) (fieldOf w 40 8)
      (fieldOf w 48 8) = w := by
  simp only [wordOfBytes, fieldOf]
  ext i hi
  interval_cases i <;> simp

/-! ### Masks -/

/-- Masking gives back a value that fits its field. -/
theorem mask_of_fits {n : Nat} {v : Int} (h : fitsField n v = true) : ((mask n v).toNat : Int) = v := by
  simp only [fitsField, decide_eq_true_eq] at h
  simp only [mask, BitVec.toNat_ofNat]
  rw [Int.emod_eq_of_lt h.1 h.2, Nat.mod_eq_of_lt, Int.toNat_of_nonneg h.1]
  zify
  rw [Int.toNat_of_nonneg h.1]
  exact h.2

@[simp] theorem mask_toNat {n : Nat} (x : BitVec n) : mask n (x.toNat : Int) = x := by
  have hx : fitsField n (x.toNat : Int) = true := by
    simp only [fitsField, decide_eq_true_eq]
    exact_mod_cast And.intro (Nat.zero_le _) x.isLt
  exact BitVec.eq_of_toNat_eq (by exact_mod_cast mask_of_fits hx)

/-- A packed word carries the tag of its variant. -/
theorem tagOf_encodeWord (r : Record) : tagOf (encodeWord r) = r.truncated.tag := by
  cases r <;> simp only [tagOf, fieldOf, encodeWord, Record.truncated, Instr.tag] <;>
    (ext i hi; interval_cases i <;> simp)

end Sys2Proof
end

