-- ==== Sys2Proof/Laws/State.lean ====
section
/-! SUPPORT. One lemma for each field under each update of the state, so that no proof unfolds a record update. -/

namespace Sys2Proof.Machine

/-! ### The start of a run -/

@[simp] theorem State.start_prog (input : RunInput) : (State.start input).prog = input.prog := rfl
@[simp] theorem State.start_cellBits (input : RunInput) : (State.start input).cellBits = input.cellBits := rfl
@[simp] theorem State.start_ip (input : RunInput) : (State.start input).ip = 0 := rfl
@[simp] theorem State.start_mem (input : RunInput) : (State.start input).mem = input.mem := rfl
@[simp] theorem State.start_nExec (input : RunInput) : (State.start input).nExec = 0 := rfl
@[simp] theorem State.start_nMax (input : RunInput) : (State.start input).nMax = 0 := rfl
@[simp] theorem State.start_nUnknown (input : RunInput) : (State.start input).nUnknown = 0 := rfl
@[simp] theorem State.start_events (input : RunInput) : (State.start input).events = [] := rfl
@[simp] theorem State.start_fault (input : RunInput) : (State.start input).fault = none := rfl

/-! ### A run after another -/

@[simp] theorem State.nextRun_prog (s : State) (prog : List Byte) : (s.nextRun prog).prog = prog := rfl
@[simp] theorem State.nextRun_cellBits (s : State) (prog : List Byte) : (s.nextRun prog).cellBits = s.cellBits := rfl
@[simp] theorem State.nextRun_ip (s : State) (prog : List Byte) : (s.nextRun prog).ip = 0 := rfl
@[simp] theorem State.nextRun_mem (s : State) (prog : List Byte) : (s.nextRun prog).mem = s.mem := rfl
@[simp] theorem State.nextRun_nExec (s : State) (prog : List Byte) : (s.nextRun prog).nExec = 0 := rfl
@[simp] theorem State.nextRun_nMax (s : State) (prog : List Byte) : (s.nextRun prog).nMax = 0 := rfl
@[simp] theorem State.nextRun_nUnknown (s : State) (prog : List Byte) : (s.nextRun prog).nUnknown = 0 := rfl
@[simp] theorem State.nextRun_events (s : State) (prog : List Byte) : (s.nextRun prog).events = [] := rfl
@[simp] theorem State.nextRun_fault (s : State) (prog : List Byte) : (s.nextRun prog).fault = none := rfl

/-! ### Taking `AddressOutOfBounds` -/

@[simp] theorem State.takeAddressFault_prog (s : State) (a : Nat) : (s.takeAddressFault a).prog = s.prog := rfl
@[simp] theorem State.takeAddressFault_cellBits (s : State) (a : Nat) : (s.takeAddressFault a).cellBits = s.cellBits := rfl
@[simp] theorem State.takeAddressFault_ip (s : State) (a : Nat) : (s.takeAddressFault a).ip = s.ip := rfl
@[simp] theorem State.takeAddressFault_mem (s : State) (a : Nat) : (s.takeAddressFault a).mem = s.mem := rfl
@[simp] theorem State.takeAddressFault_nExec (s : State) (a : Nat) : (s.takeAddressFault a).nExec = s.nExec := rfl
@[simp] theorem State.takeAddressFault_nMax (s : State) (a : Nat) : (s.takeAddressFault a).nMax = s.nMax := rfl
@[simp] theorem State.takeAddressFault_nUnknown (s : State) (a : Nat) : (s.takeAddressFault a).nUnknown = s.nUnknown := rfl
@[simp] theorem State.takeAddressFault_events (s : State) (a : Nat) : (s.takeAddressFault a).events = s.events := rfl
@[simp] theorem State.takeAddressFault_fault (s : State) (a : Nat) : (s.takeAddressFault a).fault = some { cause := .addressOutOfBounds, addr := a, index := s.ip / 7 } := rfl

/-! ### Taking `UnknownOpcode` -/

@[simp] theorem State.recordUnknown_prog (s : State) (tag : Tag) : (s.recordUnknown tag).prog = s.prog := rfl
@[simp] theorem State.recordUnknown_cellBits (s : State) (tag : Tag) : (s.recordUnknown tag).cellBits = s.cellBits := rfl
@[simp] theorem State.recordUnknown_ip (s : State) (tag : Tag) : (s.recordUnknown tag).ip = s.ip + 7 := rfl
@[simp] theorem State.recordUnknown_mem (s : State) (tag : Tag) : (s.recordUnknown tag).mem = s.mem := rfl
@[simp] theorem State.recordUnknown_nExec (s : State) (tag : Tag) : (s.recordUnknown tag).nExec = s.nExec := rfl
@[simp] theorem State.recordUnknown_nMax (s : State) (tag : Tag) : (s.recordUnknown tag).nMax = s.nMax := rfl
@[simp] theorem State.recordUnknown_nUnknown (s : State) (tag : Tag) : (s.recordUnknown tag).nUnknown = s.nUnknown + 1 := rfl
@[simp] theorem State.recordUnknown_events (s : State) (tag : Tag) : (s.recordUnknown tag).events = s.events ++ [{ index := s.ip / 7, tag := tag }] := rfl
@[simp] theorem State.recordUnknown_fault (s : State) (tag : Tag) : (s.recordUnknown tag).fault = s.fault := rfl

/-! ### Completing an instruction whose write is done -/

@[simp] theorem State.complete_done_prog (s : State) (k : Nat) (m : Memory) : (s.complete k (.done m)).prog = s.prog := rfl
@[simp] theorem State.complete_done_cellBits (s : State) (k : Nat) (m : Memory) : (s.complete k (.done m)).cellBits = s.cellBits := rfl
@[simp] theorem State.complete_done_ip (s : State) (k : Nat) (m : Memory) : (s.complete k (.done m)).ip = s.ip + 7 := rfl
@[simp] theorem State.complete_done_mem (s : State) (k : Nat) (m : Memory) : (s.complete k (.done m)).mem = m := rfl
@[simp] theorem State.complete_done_nExec (s : State) (k : Nat) (m : Memory) : (s.complete k (.done m)).nExec = s.nExec + 1 := rfl
@[simp] theorem State.complete_done_nMax (s : State) (k : Nat) (m : Memory) : (s.complete k (.done m)).nMax = s.nMax + k := rfl
@[simp] theorem State.complete_done_nUnknown (s : State) (k : Nat) (m : Memory) : (s.complete k (.done m)).nUnknown = s.nUnknown := rfl
@[simp] theorem State.complete_done_events (s : State) (k : Nat) (m : Memory) : (s.complete k (.done m)).events = s.events := rfl
@[simp] theorem State.complete_done_fault (s : State) (k : Nat) (m : Memory) : (s.complete k (.done m)).fault = s.fault := rfl

/-! ### Completing an instruction whose access raised -/

@[simp] theorem State.complete_raised (s : State) (k a : Nat) :
    s.complete k (.raised a) = s.takeAddressFault a := rfl

/-! ### Placing a word -/

@[simp] theorem State.withFetchWord_prog (s : State) (nbits w : Nat) : (s.withFetchWord nbits w).prog = placeBytes s.prog s.ip (tableBytes nbits w) := rfl
@[simp] theorem State.withFetchWord_cellBits (s : State) (nbits w : Nat) : (s.withFetchWord nbits w).cellBits = s.cellBits := rfl
@[simp] theorem State.withFetchWord_ip (s : State) (nbits w : Nat) : (s.withFetchWord nbits w).ip = s.ip := rfl
@[simp] theorem State.withFetchWord_mem (s : State) (nbits w : Nat) : (s.withFetchWord nbits w).mem = s.mem := rfl
@[simp] theorem State.withFetchWord_nExec (s : State) (nbits w : Nat) : (s.withFetchWord nbits w).nExec = s.nExec := rfl
@[simp] theorem State.withFetchWord_nMax (s : State) (nbits w : Nat) : (s.withFetchWord nbits w).nMax = s.nMax := rfl
@[simp] theorem State.withFetchWord_nUnknown (s : State) (nbits w : Nat) : (s.withFetchWord nbits w).nUnknown = s.nUnknown := rfl
@[simp] theorem State.withFetchWord_events (s : State) (nbits w : Nat) : (s.withFetchWord nbits w).events = s.events := rfl
@[simp] theorem State.withFetchWord_fault (s : State) (nbits w : Nat) : (s.withFetchWord nbits w).fault = none := rfl

/-! ### The memory array -/

@[simp] theorem createMemory_capacity (n : Nat) : (createMemory n).capacity = n := rfl
@[simp] theorem createMemory_cell (n a : Nat) : (createMemory n).cell a = 0 := rfl
@[simp] theorem Memory.set_capacity (m : Memory) (a : Nat) (v : Nat) : (m.set a v).capacity = m.capacity := rfl

@[simp] theorem State.index_eq (s : State) : s.index = s.ip / 7 := rfl

@[simp] theorem Access.andThen_done {α β : Type} (x : α) (f : α → Access β) : (Access.done x).andThen f = f x := rfl
@[simp] theorem Access.andThen_raised {α β : Type} (a : Nat) (f : α → Access β) :
    (Access.raised a).andThen f = .raised a := rfl

end Sys2Proof.Machine
end

