-- ==== Sys2Proof/Laws/Memory.lean ====
section
/-! SUPPORT. The memory array: a read after a write, what a write leaves alone, and the canonical form, which every memory
operation keeps. -/

namespace Sys2Proof.Machine

/-! ### The list of cells -/

theorem lookupCell_eraseCell (cells : List (Nat × Nat)) (a b : Nat) :
    lookupCell (eraseCell cells a) b = if b = a then 0 else lookupCell cells b := by
  induction cells with
  | nil => simp [eraseCell, lookupCell]
  | cons c rest ih =>
    by_cases hc : c.1 = a
    · have he : eraseCell (c :: rest) a = eraseCell rest a := by simp [eraseCell, hc]
      rw [he, ih]
      by_cases hb : b = a
      · simp [hb]
      · simp [lookupCell, hb, hc, Ne.symm hb]
    · have he : eraseCell (c :: rest) a = c :: eraseCell rest a := by simp [eraseCell, hc]
      rw [he]
      by_cases hb : c.1 = b
      · simp [lookupCell, hb, hb ▸ hc]
      · simp [lookupCell, hb, ih]

theorem lookupCell_insertCell_same (cells : List (Nat × Nat)) (a : Nat) (v : Nat)
    (h : ∀ c ∈ cells, c.1 ≠ a) : lookupCell (insertCell cells a v) a = v := by
  induction cells with
  | nil => simp [insertCell, lookupCell]
  | cons c rest ih =>
    simp only [insertCell]
    split
    · simp [lookupCell]
    · simp [lookupCell, h c (by simp), ih fun d hd => h d (by simp [hd])]

theorem lookupCell_insertCell_other (cells : List (Nat × Nat)) (a b : Nat) (v : Nat) (h : b ≠ a) :
    lookupCell (insertCell cells a v) b = lookupCell cells b := by
  induction cells with
  | nil => simp [insertCell, lookupCell, Ne.symm h]
  | cons c rest ih =>
    simp only [insertCell]
    split
    · simp [lookupCell, Ne.symm h]
    · simp [lookupCell, ih]

theorem mem_eraseCell {cells : List (Nat × Nat)} {a : Nat} {c : Nat × Nat} :
    c ∈ eraseCell cells a ↔ c ∈ cells ∧ c.1 ≠ a := by simp [eraseCell]

theorem mem_insertCell {cells : List (Nat × Nat)} {a : Nat} {v : Nat} {c : Nat × Nat} :
    c ∈ insertCell cells a v ↔ c = (a, v) ∨ c ∈ cells := by
  induction cells with
  | nil => simp [insertCell]
  | cons d rest ih =>
    simp only [insertCell]
    split
    · simp
    · simp only [List.mem_cons, ih]; tauto

theorem insertCell_pairwise {cells : List (Nat × Nat)} {a : Nat} {v : Nat}
    (hs : cells.Pairwise fun c d => c.1 < d.1) (h : ∀ c ∈ cells, c.1 ≠ a) :
    (insertCell cells a v).Pairwise fun c d => c.1 < d.1 := by
  induction cells with
  | nil => simp [insertCell]
  | cons c rest ih =>
    simp only [insertCell]
    rw [List.pairwise_cons] at hs
    split
    next hac =>
      refine List.pairwise_cons.2 ⟨fun d hd => ?_, List.pairwise_cons.2 hs⟩
      rcases List.mem_cons.1 hd with rfl | hd
      · exact hac
      · exact Nat.lt_trans hac (hs.1 d hd)
    next hac =>
      refine List.pairwise_cons.2 ⟨fun d hd => ?_, ih hs.2 fun d hd => h d (by simp [hd])⟩
      rcases mem_insertCell.1 hd with rfl | hd
      · exact lt_of_le_of_ne (Nat.le_of_not_lt hac) (h c (by simp))
      · exact hs.1 d hd

/-! ### Reading after writing -/

/-- The whole effect of `mem[a] <- v` on the cells (R36): no condition on the memory. -/
theorem Memory.cell_set (m : Memory) (a b : Nat) (v : Nat) :
    (m.set a v).cell b = if b = a then v else m.cell b := by
  simp only [Memory.cell, Memory.set]
  split
  next hv => subst hv; exact lookupCell_eraseCell _ _ _
  next =>
    by_cases hb : b = a
    · subst hb
      simp [lookupCell_insertCell_same _ _ _ fun c hc => (mem_eraseCell.1 hc).2]
    · simp [lookupCell_insertCell_other _ _ _ _ hb, lookupCell_eraseCell, hb]

@[simp] theorem Memory.cell_set_same (m : Memory) (a : Nat) (v : Nat) : (m.set a v).cell a = v := by
  simp [Memory.cell_set]

theorem Memory.cell_set_other (m : Memory) {a b : Nat} (v : Nat) (h : b ≠ a) :
    (m.set a v).cell b = m.cell b := by simp [Memory.cell_set, h]

/-! ### The canonical form -/

theorem createMemory_wf (n : Nat) : (createMemory n).wf := by simp [Memory.wf, createMemory]

theorem Memory.mem_set {m : Memory} {a : Nat} {v : Nat} {c : Nat × Nat} (h : c ∈ (m.set a v).cells) :
    (c = (a, v) ∧ v ≠ 0) ∨ (c ∈ m.cells ∧ c.1 ≠ a) := by
  unfold Memory.set at h
  by_cases hv : v = 0
  · simp only [hv, if_true, mem_eraseCell] at h; exact .inr h
  · simp only [hv, if_false, mem_insertCell, mem_eraseCell] at h
    rcases h with h | h
    · exact .inl ⟨h, hv⟩
    · exact .inr h

/-- Storing keeps the canonical form. -/
theorem Memory.set_wf {m : Memory} {a : Nat} {v : Nat} (h : m.wf) (ha : a < m.capacity) : (m.set a v).wf := by
  refine ⟨?_, fun c hc => ?_⟩
  · have he : (eraseCell m.cells a).Pairwise fun c d => c.1 < d.1 := h.1.filter _
    simp only [Memory.set]
    split
    · exact he
    · exact insertCell_pairwise he fun c hc => (mem_eraseCell.1 hc).2
  · rcases Memory.mem_set hc with ⟨rfl, hv⟩ | ⟨hc, -⟩
    · exact ⟨ha, hv⟩
    · exact h.2 c hc

/-- Storing a value that fits keeps every value fitting (R15). -/
theorem Memory.set_fits {m : Memory} {a n : Nat} {v : Nat} (h : m.fits n) (hv : v < 2 ^ n) :
    (m.set a v).fits n := by
  intro c hc
  rcases Memory.mem_set hc with ⟨rfl, -⟩ | ⟨hc, -⟩
  · exact hv
  · exact h c hc

/-- The value a listed cell holds is the value read there. -/
theorem lookupCell_of_mem {cells : List (Nat × Nat)} (hs : cells.Pairwise fun c d => c.1 < d.1)
    {c : Nat × Nat} (hc : c ∈ cells) : lookupCell cells c.1 = c.2 := by
  induction cells with
  | nil => simp at hc
  | cons d rest ih =>
    rw [List.pairwise_cons] at hs
    rcases List.mem_cons.1 hc with rfl | hc
    · simp [lookupCell]
    · simp [lookupCell, (hs.1 c hc).ne, ih hs.2 hc]

theorem lookupCell_of_forall_ne {cells : List (Nat × Nat)} {a : Nat} (h : ∀ c ∈ cells, c.1 ≠ a) :
    lookupCell cells a = 0 := by
  induction cells with
  | nil => rfl
  | cons c rest ih => simp [lookupCell, h c (by simp), ih fun d hd => h d (by simp [hd])]

/-- Every cell of a memory that fits reads as a value that fits. -/
theorem Memory.cell_lt {m : Memory} {n : Nat} (h : m.fits n) (a : Nat) : m.cell a < 2 ^ n := by
  suffices ∀ cells : List (Nat × Nat), (∀ c ∈ cells, c.2 < 2 ^ n) → lookupCell cells a < 2 ^ n from this _ h
  intro cells hc
  induction cells with
  | nil => exact Nat.two_pow_pos n
  | cons c rest ih =>
    simp only [lookupCell]
    split
    · exact hc c (by simp)
    · exact ih fun d hd => hc d (by simp [hd])

end Sys2Proof.Machine
end

