-- ==== Sys2Proof/Laws/Ops.lean ====
section
/-! SUPPORT. What each shared operation can do, said once: the memory primitives, a chain of accesses, the end of an
instruction, fetching. -/

namespace Sys2Proof.Machine

/-! ### The primitives -/

theorem memRead_inside {m : Memory} {a : Nat} (h : a < m.capacity) : memRead m a = .done (m.cell a) := by
  simp [memRead, h]

theorem memRead_outside {m : Memory} {a : Nat} (h : m.capacity ≤ a) : memRead m a = .raised a := by
  simp [memRead, Nat.not_lt.2 h]

theorem memWrite_inside {m : Memory} {a : Nat} (v : Nat) (h : a < m.capacity) :
    memWrite m a v = .done (m.set a v) := by
  simp [memWrite, h]

theorem memWrite_outside {m : Memory} {a : Nat} (v : Nat) (h : m.capacity ≤ a) : memWrite m a v = .raised a := by
  simp [memWrite, Nat.not_lt.2 h]

theorem memRead_cases (m : Memory) (a : Nat) :
    (a < m.capacity ∧ memRead m a = .done (m.cell a)) ∨ (m.capacity ≤ a ∧ memRead m a = .raised a) := by
  rcases Nat.lt_or_ge a m.capacity with h | h
  · exact .inl ⟨h, memRead_inside h⟩
  · exact .inr ⟨h, memRead_outside h⟩

theorem memWrite_cases (m : Memory) (a : Nat) (v : Nat) :
    (a < m.capacity ∧ memWrite m a v = .done (m.set a v)) ∨ (m.capacity ≤ a ∧ memWrite m a v = .raised a) := by
  rcases Nat.lt_or_ge a m.capacity with h | h
  · exact .inl ⟨h, memWrite_inside v h⟩
  · exact .inr ⟨h, memWrite_outside v h⟩

/-- A read after a store, at any address. -/
theorem memRead_set (m : Memory) (a b : Nat) (v : Nat) (h : a < m.capacity) :
    memRead (m.set a v) b = if b = a then .done v else memRead m b := by
  by_cases hb : b = a
  · subst hb; simp [memRead, h]
  · simp [memRead, Memory.cell_set, hb]

/-! ### The end of an instruction -/

/-- An instruction ends in one of two ways (R80): its write is done and it is counted, or the fault is taken. -/
theorem complete_cases (s : State) (k : Nat) (r : Access Memory) :
    (∃ m, r = .done m ∧
      s.complete k r = { s with mem := m, ip := s.ip + 7, nExec := s.nExec + 1, nMax := s.nMax + k }) ∨
    (∃ a, r = .raised a ∧ s.complete k r = s.takeAddressFault a) := by
  cases r with
  | done m => exact .inl ⟨m, rfl, rfl⟩
  | raised a => exact .inr ⟨a, rfl, rfl⟩

/-! ### Fetching -/

/-- A word is fetched exactly where 7 bytes remain (R80, R81). -/
theorem fetch_isSome (prog : List Byte) (p : Nat) : (fetch prog p).isSome = true ↔ 7 ≤ prog.length - p := by
  rw [← List.length_drop]
  unfold fetch
  split
  next h => simp [h]
  next h =>
    match hd : prog.drop p with
    | [] | [_] | [_, _] | [_, _, _] | [_, _, _, _] | [_, _, _, _, _] | [_, _, _, _, _, _] => simp
    | b0 :: b1 :: b2 :: b3 :: b4 :: b5 :: b6 :: r => exact absurd hd (h b0 b1 b2 b3 b4 b5 b6 r)

theorem fetch_of_drop {prog rest : List Byte} {p : Nat} {b0 b1 b2 b3 b4 b5 b6 : Byte}
    (h : prog.drop p = b0 :: b1 :: b2 :: b3 :: b4 :: b5 :: b6 :: rest) :
    fetch prog p = some (wordOfBytes b0 b1 b2 b3 b4 b5 b6) := by
  simp [fetch, h]

end Sys2Proof.Machine
end

