-- ==== Sys2Proof/Laws/PerInstr.lean ====
section
/-! SUPPORT. What holds of every outcome as syntax, one lemma for each constructor of `Instr`. -/

namespace Sys2Proof.Laws

/-- The outcome is an instruction exactly when its tag is one of the four that encode one (R57, R63). -/
def WellFormedByTag.Statement (i : Instr) : Prop := i.wellFormed = decide (i.tag ∈ [3#5, 7#5, 19#5, 20#5])

theorem WellFormedByTag.loadConst (address : Addr) (constant : Constant) : WellFormedByTag.Statement (.loadConst address constant) := rfl
theorem WellFormedByTag.read (dstAddr srcAddr : Addr) : WellFormedByTag.Statement (.read dstAddr srcAddr) := rfl
theorem WellFormedByTag.write (srcAddr : Addr) (offset : Offset) (baseAddr : Addr) : WellFormedByTag.Statement (.write srcAddr offset baseAddr) := rfl
theorem WellFormedByTag.max (addrB addrC addrD : Addr) : WellFormedByTag.Statement (.max addrB addrC addrD) := rfl
theorem WellFormedByTag.unknownOpcode0 : WellFormedByTag.Statement (.unknownOpcode0) := rfl
theorem WellFormedByTag.unknownOpcode1 : WellFormedByTag.Statement (.unknownOpcode1) := rfl
theorem WellFormedByTag.unknownOpcode2 : WellFormedByTag.Statement (.unknownOpcode2) := rfl
theorem WellFormedByTag.unknownOpcode4 : WellFormedByTag.Statement (.unknownOpcode4) := rfl
theorem WellFormedByTag.unknownOpcode5 : WellFormedByTag.Statement (.unknownOpcode5) := rfl
theorem WellFormedByTag.unknownOpcode6 : WellFormedByTag.Statement (.unknownOpcode6) := rfl
theorem WellFormedByTag.unknownOpcode8 : WellFormedByTag.Statement (.unknownOpcode8) := rfl
theorem WellFormedByTag.unknownOpcode9 : WellFormedByTag.Statement (.unknownOpcode9) := rfl
theorem WellFormedByTag.unknownOpcode10 : WellFormedByTag.Statement (.unknownOpcode10) := rfl
theorem WellFormedByTag.unknownOpcode11 : WellFormedByTag.Statement (.unknownOpcode11) := rfl
theorem WellFormedByTag.unknownOpcode12 : WellFormedByTag.Statement (.unknownOpcode12) := rfl
theorem WellFormedByTag.unknownOpcode13 : WellFormedByTag.Statement (.unknownOpcode13) := rfl
theorem WellFormedByTag.unknownOpcode14 : WellFormedByTag.Statement (.unknownOpcode14) := rfl
theorem WellFormedByTag.unknownOpcode15 : WellFormedByTag.Statement (.unknownOpcode15) := rfl
theorem WellFormedByTag.unknownOpcode16 : WellFormedByTag.Statement (.unknownOpcode16) := rfl
theorem WellFormedByTag.unknownOpcode17 : WellFormedByTag.Statement (.unknownOpcode17) := rfl
theorem WellFormedByTag.unknownOpcode18 : WellFormedByTag.Statement (.unknownOpcode18) := rfl
theorem WellFormedByTag.unknownOpcode21 : WellFormedByTag.Statement (.unknownOpcode21) := rfl
theorem WellFormedByTag.unknownOpcode22 : WellFormedByTag.Statement (.unknownOpcode22) := rfl
theorem WellFormedByTag.unknownOpcode23 : WellFormedByTag.Statement (.unknownOpcode23) := rfl
theorem WellFormedByTag.unknownOpcode24 : WellFormedByTag.Statement (.unknownOpcode24) := rfl
theorem WellFormedByTag.unknownOpcode25 : WellFormedByTag.Statement (.unknownOpcode25) := rfl
theorem WellFormedByTag.unknownOpcode26 : WellFormedByTag.Statement (.unknownOpcode26) := rfl
theorem WellFormedByTag.unknownOpcode27 : WellFormedByTag.Statement (.unknownOpcode27) := rfl
theorem WellFormedByTag.unknownOpcode28 : WellFormedByTag.Statement (.unknownOpcode28) := rfl
theorem WellFormedByTag.unknownOpcode29 : WellFormedByTag.Statement (.unknownOpcode29) := rfl
theorem WellFormedByTag.unknownOpcode30 : WellFormedByTag.Statement (.unknownOpcode30) := rfl
theorem WellFormedByTag.unknownOpcode31 : WellFormedByTag.Statement (.unknownOpcode31) := rfl

end Sys2Proof.Laws
end

