-- ==== Sys2Proof/Laws/Reporter.lean ====
section
/-! SUPPORT. What the report of one range is, said once. -/

namespace Sys2Proof.Machine

theorem reportRange_empty {m : Memory} {start stop : Int} (h : min stop ((m.capacity : Int) - 1) < max start 0) :
    reportRange m start stop =
      { start := Config.emptyRangeStart start stop m.capacity, stop := Config.emptyRangeEnd start stop m.capacity,
        size := 0, cells := [] } := if_pos h

theorem reportRange_nonempty {m : Memory} {start stop : Int} (h : max start 0 ≤ min stop ((m.capacity : Int) - 1)) :
    reportRange m start stop =
      { start := max start 0, stop := min stop ((m.capacity : Int) - 1),
        size := rangeSize (max start 0) (min stop ((m.capacity : Int) - 1)),
        cells := cellEntries m (max start 0).toNat (rangeSize (max start 0) (min stop ((m.capacity : Int) - 1))) } :=
  if_neg (not_lt.2 h)

@[simp] theorem cellEntries_length (m : Memory) (start size : Nat) : (cellEntries m start size).length = size := by
  simp [cellEntries]

end Sys2Proof.Machine
end

