-- ==== Sys2Proof/Laws/Step.lean ====
section
/-! SUPPORT. What the meanings and the step can do, said once. -/

namespace Sys2Proof.Machine

/-- The chain of accesses of one of the four instructions (R100, R105, R110, R117) and how many `Max` operations it
counts; nothing for a word with an unknown tag. -/
def storeOf (m : Memory) : Instr → Option (Nat × Access Memory)
  | .loadConst address constant => some (0, memWrite m address.toNat constant.toNat)
  | .read dstAddr srcAddr => some (0, (memRead m srcAddr.toNat).andThen fun v => memWrite m dstAddr.toNat v)
  | .write srcAddr offset baseAddr =>
    some (0, (memRead m srcAddr.toNat).andThen fun v => memWrite m (writeTarget offset baseAddr) v)
  | .max addrB addrC addrD =>
    some (1, (memRead m addrB.toNat).andThen fun b => (memRead m addrD.toNat).andThen fun d =>
      memWrite m addrC.toNat (maxCell b d))
  | _ => none

/-- Every outcome is executed in one of two ways: it completes its accesses, or it is recorded as unknown (R80). -/
theorem exec_cases (i : Instr) (s : State) :
    (∃ k r, storeOf s.mem i = some (k, r) ∧ i.wellFormed = true ∧ exec i s = .next (s.complete k r)) ∨
    (storeOf s.mem i = none ∧ i.wellFormed = false ∧ exec i s = .next (s.recordUnknown i.tag)) := by
  cases i
  case loadConst a c => exact .inl ⟨_, _, rfl, rfl, rfl⟩
  case read a b => exact .inl ⟨_, _, rfl, rfl, rfl⟩
  case write a b c => exact .inl ⟨_, _, rfl, rfl, rfl⟩
  case max a b c => exact .inl ⟨_, _, rfl, rfl, rfl⟩
  all_goals exact .inr ⟨rfl, rfl, rfl⟩

/-- The step of a state with no fault recorded and a word to fetch. -/
theorem step_of_fetch {s : State} {w : Word} (hf : s.fault = none) (hw : fetch s.prog s.ip = some w) :
    step s = exec (decodeWord w) s := by simp [step, hf, hw]

/-- A step that answers a next state has fetched a word and executed it, with no fault recorded. -/
theorem step_next {s t : State} (h : step s = .next t) :
    s.fault = none ∧ ∃ w, fetch s.prog s.ip = some w ∧ exec (decodeWord w) s = .next t := by
  unfold step at h
  split at h
  · cases h
  next hf =>
    split at h
    · cases h
    next w hw => exact ⟨hf, w, hw, h⟩

end Sys2Proof.Machine
end

