-- ==== Sys2Proof/Tests/Slice0.lean ====
section
/-! SUPPORT. Tests of single operations and single steps, and for every statement with hypotheses a witness that meets
them. The expected results are the spec's: the vectors of 95_test_vectors.md, named in each comment. -/

open Sys2Proof Sys2Proof.Machine

namespace Sys2Proof.Tests

/-- A run about to start: a program, a capacity, preset cells. -/
def runOf (prog : List Byte) (capacity : Nat) (cells : List (Nat × Nat)) : State :=
  State.start { prog := prog, mem := Memory.preset capacity cells, cellBits := none }

/-- The next state of an outcome. -/
def nextOf : Host.Outcome State Fault Refusal → Option State
  | .next s => some s
  | .fault _ => none
  | .refused _ => none

/-- What most vectors give: the non-zero cells, `ip`, `nExec`, `nMax`, `nUnknown`. -/
def seen (s : State) : List (Nat × Nat) × Nat × Nat × Nat × Nat := (s.mem.cells, s.ip, s.nExec, s.nMax, s.nUnknown)

/-- The fault record that a halted vector gives. -/
def halted (addr index : Nat) : Option FaultRecord :=
  some { cause := .addressOutOfBounds, addr := addr, index := index }

/-! ### Well-formedness: an ill-formed term for each check -/

theorem test_wellFormed_accepts_largest_fields :
    [Record.loadConst 65535 1048575, .read 65535 65535, .write 65535 31 65535, .max 65535 65535 65535].all
      Record.wellFormed = true := by decide
theorem test_wellFormed_refuses_loadConst_fields :
    [Record.loadConst 65536 0, .loadConst (-1) 0, .loadConst 0 1048576, .loadConst 0 (-1)].any Record.wellFormed
      = false := by decide
theorem test_wellFormed_refuses_read_fields :
    [Record.read 65536 0, .read (-1) 0, .read 0 65536, .read 0 (-1)].any Record.wellFormed = false := by decide
theorem test_wellFormed_refuses_write_fields :
    [Record.write 65536 0 0, .write (-1) 0 0, .write 0 32 0, .write 0 (-1) 0, .write 0 0 65536, .write 0 0 (-1)].any
      Record.wellFormed = false := by decide
theorem test_wellFormed_refuses_max_fields :
    [Record.max 65536 0 0, .max (-1) 0 0, .max 0 65536 0, .max 0 (-1) 0, .max 0 0 65536, .max 0 0 (-1)].any
      Record.wellFormed = false := by decide
theorem test_wellFormed_refuses_unknown_outcomes :
    [
      Instr.unknownOpcode0, .unknownOpcode1, .unknownOpcode2, .unknownOpcode4, .unknownOpcode5,
      .unknownOpcode6, .unknownOpcode8, .unknownOpcode9, .unknownOpcode10, .unknownOpcode11,
      .unknownOpcode12, .unknownOpcode13, .unknownOpcode14, .unknownOpcode15, .unknownOpcode16,
      .unknownOpcode17, .unknownOpcode18, .unknownOpcode21, .unknownOpcode22, .unknownOpcode23,
      .unknownOpcode24, .unknownOpcode25, .unknownOpcode26, .unknownOpcode27, .unknownOpcode28,
      .unknownOpcode29, .unknownOpcode30, .unknownOpcode31].any Instr.wellFormed = false := by decide
/-- Cells out of order, a cell at the capacity, a listed zero, a cell of 19 bits, a value that does not fit 20 bits. -/
theorem test_wellFormed_refuses_run_inputs :
    [RunInput.mk [] ⟨4, [(2, 1), (1, 1)]⟩ none, ⟨[], ⟨4, [(4, 1)]⟩, none⟩, ⟨[], ⟨4, [(1, 0)]⟩, none⟩,
      ⟨[], ⟨4, []⟩, some 19⟩, ⟨[], ⟨4, [(1, 1048576)]⟩, some 20⟩].any RunInput.wellFormed = false := by decide

/-! ### Decoding: words written out from the encodings -/

/-- K2, K3, K5 and U4. -/
theorem test_decode_loadConst :
    [0x1FFFF3, 0x1FFFFE00013, 0x200033, 0xFFFFFFFFFFFFF3].map decodeWord =
      [.loadConst 65535 0, .loadConst 0 1048575, .loadConst 1 1, .loadConst 65535 1048575] := by decide
/-- The pattern of R53, field by field: ignored bits, constant, address, tag. -/
theorem test_decode_loadConst_bits :
    decodeWord (0b101000000000001#15 ++ 0b00000000001000101111#20 ++ 0b0000001100111001#16 ++ 0b10011#5) =
      .loadConst 825 559 := by decide
/-- K8, K9, K12 and U5. -/
theorem test_decode_read :
    [0x1FFFE3, 0x1FFFE00003, 0xC801903, 0xFFFFFFFFFFFFE3].map decodeWord =
      [.read 65535 0, .read 0 65535, .read 200 100, .read 65535 65535] := by decide
/-- The pattern of R54: ignored bits, source, destination, tag. -/
theorem test_decode_read_bits :
    decodeWord (0b1000000000000000001#19 ++ 0b0000000011010111#16 ++ 0b0000000001010100#16 ++ 0b00011#5) =
      .read 84 215 := by decide
/-- K14, K15, K16 and U6. -/
theorem test_decode_write :
    [0x1FFFF4, 0x3E00014, 0x3FFFC000014, 0xFFFFFFFFFFFFF4].map decodeWord =
      [.write 65535 0 0, .write 0 31 0, .write 0 0 65535, .write 65535 31 65535] := by decide
/-- The pattern of R55: ignored bits, base, offset, source, tag. -/
theorem test_decode_write_bits :
    decodeWord (0b10000000000001#14 ++ 0b0000000101100000#16 ++ 0b11110#5 ++ 0b0000000011000001#16 ++ 0b10100#5) =
      .write 193 30 352 := by decide
/-- K20, K21, K22 and U3. -/
theorem test_decode_max :
    [0x1FFFE7, 0x1FFFE00007, 0x1FFFE000000007, 0xA0B6A00D806107].map decodeWord =
      [.max 65535 0 0, .max 0 65535 0, .max 0 0 65535, .max 776 108 1461] := by decide
/-- The pattern of R56: ignored bits, addr_d, addr_c, addr_b, tag. -/
theorem test_decode_max_bits :
    decodeWord (0b101#3 ++ 0b0000001000110101#16 ++ 0b0000000101101111#16 ++ 0b0000001100001110#16 ++ 0b00111#5) =
      .max 782 367 565 := by decide
/-- The patterns of the 28 unknown tags (R57), the other 51 bits all 0 and all 1. -/
theorem test_decode_unknown :
    ∀ p ∈ ([
      (0b00000#5, .unknownOpcode0), (0b00001#5, .unknownOpcode1), (0b00010#5, .unknownOpcode2),
      (0b00100#5, .unknownOpcode4), (0b00101#5, .unknownOpcode5), (0b00110#5, .unknownOpcode6),
      (0b01000#5, .unknownOpcode8), (0b01001#5, .unknownOpcode9), (0b01010#5, .unknownOpcode10),
      (0b01011#5, .unknownOpcode11), (0b01100#5, .unknownOpcode12), (0b01101#5, .unknownOpcode13),
      (0b01110#5, .unknownOpcode14), (0b01111#5, .unknownOpcode15), (0b10000#5, .unknownOpcode16),
      (0b10001#5, .unknownOpcode17), (0b10010#5, .unknownOpcode18), (0b10101#5, .unknownOpcode21),
      (0b10110#5, .unknownOpcode22), (0b10111#5, .unknownOpcode23), (0b11000#5, .unknownOpcode24),
      (0b11001#5, .unknownOpcode25), (0b11010#5, .unknownOpcode26), (0b11011#5, .unknownOpcode27),
      (0b11100#5, .unknownOpcode28), (0b11101#5, .unknownOpcode29), (0b11110#5, .unknownOpcode30),
      (0b11111#5, .unknownOpcode31)] : List (Tag × Instr)),
      decodeWord (0#51 ++ p.1) = p.2 ∧ decodeWord (BitVec.allOnes 51 ++ p.1) = p.2 := by decide
/-- K1 with its stream order, and a fragment of 6 bytes (E2). -/
theorem test_decode_bytes :
    decode [0x93, 0x0C, 0x40, 0x05, 0, 0, 0, 0xAA] = .ok (.loadConst 100 42, [0xAA]) ∧
    decode [0x13, 0x00, 0x20, 0x00, 0x00, 0x00] = .error (.fragment 6) := by decide
theorem test_decodeTableWord :
    decodeTableWord 56 0x28003C00147 = some (.max 10 30 20) ∧
    decodeTableWord 56 0xFFEEDDCCBBAA1F = some .unknownOpcode31 := by decide

/-! ### Packing -/

/-- T1, T3, T4, T5: oversized inputs. -/
theorem test_encode_truncates :
    [Record.loadConst 0 1048581, .loadConst 65537 0, .loadConst 0x12345 0xABCDEF, .write 0 35 0].map encode =
      [[0x13, 0x00, 0xA0, 0, 0, 0, 0], [0x33, 0, 0, 0, 0, 0, 0], [0xB3, 0x68, 0xE4, 0xBD, 0x79, 0x01, 0],
       [0x14, 0x00, 0x60, 0, 0, 0, 0]] := by decide
/-- K4, K10, K17, K23: every field at its largest value. -/
theorem test_encode_largest_fields :
    [Record.loadConst 65535 1048575, .read 65535 65535, .write 65535 31 65535, .max 65535 65535 65535].map encodeWord =
      [0x1FFFFFFFFF3, 0x1FFFFFFFE3, 0x3FFFFFFFFF4, 0x1FFFFFFFFFFFE7] := by decide
/-- R6: the floor remainder of a negative number (D12). -/
theorem test_mask_negative : mask 5 (-1) = 31#5 ∧ mask 16 (-65535) = 1#16 := by decide
/-- U4 to U8: the unused bits are cleared, and an unknown tag cannot be packed. -/
theorem test_encode_of_decode :
    [0xFFFFFFFFFFFFF3, 0xFFFFFFFFFFFFE3, 0xFFFFFFFFFFFFF4, 0xFFFFFFFFFFFFE7, 0].map
      (fun w => encodeInstr (decodeWord w)) =
      [some 0x1FFFFFFFFF3, some 0x1FFFFFFFE3, some 0x3FFFFFFFFF4, some 0x1FFFFFFFFFFFE7, none] := by decide

/-! ### One step -/

/-- L2: a constant 0 overwrites 99. -/
theorem test_loadConst_overwrites :
    (nextOf (step (runOf [0xF3, 0, 0, 0, 0, 0, 0] 256 [(7, 99)]))).map seen = some ([], 7, 1, 0, 0) := by decide
/-- L4: the first address outside. -/
theorem test_loadConst_faults :
    nextOf (step (runOf [0x13, 0x20, 0x20, 0, 0, 0, 0] 256 [])) =
      some { runOf [0x13, 0x20, 0x20, 0, 0, 0, 0] 256 [] with fault := halted 256 0 } := by decide
/-- R-3: an unwritten source reads 0 and overwrites 77. -/
theorem test_read_unwritten_source :
    (nextOf (step (runOf [0xA3, 0x00, 0xC0, 0, 0, 0, 0] 256 [(5, 77)]))).map seen = some ([], 7, 1, 0, 0) := by decide
/-- R-6: both addresses outside, the source is reported. -/
theorem test_read_reports_source :
    nextOf (step (runOf [0x83, 0x25, 0x00, 0x32, 0, 0, 0] 256 [(5, 77)])) =
      some { runOf [0x83, 0x25, 0x00, 0x32, 0, 0, 0] 256 [(5, 77)] with fault := halted 400 0 } := by decide
/-- W8: with 65567 cells the sum 65566 is a cell. -/
theorem test_write_largest_target :
    (nextOf (step (runOf [0x34, 0x00, 0xE0, 0xFF, 0xFF, 0x03, 0x00] 65567 [(1, 9)]))).map seen =
      some ([(1, 9), (65566, 9)], 7, 1, 0, 0) := by decide
/-- W9: the sum 65536 does not wrap to cell 0. -/
theorem test_write_does_not_wrap :
    nextOf (step (runOf [0x34, 0x00, 0x20, 0xFC, 0xFF, 0x03, 0x00] 65536 [(1, 9)])) =
      some { runOf [0x34, 0x00, 0x20, 0xFC, 0xFF, 0x03, 0x00] 65536 [(1, 9)] with fault := halted 65536 0 } := by
  decide
/-- M5: the destination is the first source. -/
theorem test_max_into_source :
    (nextOf (step (runOf [0x47, 0x01, 0x40, 0x01, 0x80, 0x02, 0x00] 256 [(10, 5), (20, 9)]))).map seen =
      some ([(10, 9), (20, 9)], 7, 1, 1, 0) := by decide
/-- M11: `addr_d` is checked before `addr_c`. -/
theorem test_max_reports_second_source :
    nextOf (step (runOf [0x27, 0x00, 0x80, 0x25, 0x00, 0x32, 0x00] 256 [(1, 9)])) =
      some { runOf [0x27, 0x00, 0x80, 0x25, 0x00, 0x32, 0x00] 256 [(1, 9)] with fault := halted 400 0 } := by decide
/-- E4: the all-zero word is a recorded no-op, with no memory at all. -/
theorem test_unknown_with_no_memory :
    nextOf (step (runOf [0, 0, 0, 0, 0, 0, 0] 0 [])) =
      some { runOf [0, 0, 0, 0, 0, 0, 0] 0 [] with ip := 7, nUnknown := 1, events := [⟨0, 0#5⟩] } := by decide
/-- The third word of program P3: the index counts every word. -/
theorem test_unknown_index :
    (nextOf (step { runOf (List.replicate 14 0 ++ [0x1F, 0xAA, 0xBB, 0xCC, 0xDD, 0xEE, 0xFF]) 64 [] with
      ip := 14 })).map (fun s => (s.events, s.ip)) = some ([⟨2, 31#5⟩], 21) := by decide
/-- E1, E2: no step is enabled on the empty program or on a fragment. -/
theorem test_no_step_on_fragment :
    nextOf (step (runOf [] 8 [])) = none ∧ nextOf (step (runOf [0x13, 0x00, 0x20, 0, 0, 0] 8 [])) = none := by decide
/-- A word placed after reset is the next one that runs. -/
theorem test_withFetchWord_runs :
    (nextOf (step (State.reset.withFetchWord 56 0x5400C93))).map seen = some ([(100, 42)], 7, 1, 0, 0) := by decide
/-- A word placed in the middle of a longer program, and after the end of a shorter one. -/
theorem test_placeBytes :
    placeBytes [1, 2, 3, 4, 5] 1 [8, 9] = [1, 8, 9, 4, 5] ∧ placeBytes [1] 3 [8, 9] = [1, 0, 0, 8, 9] := by decide

/-! ### The host's side -/

/-- Q1 to Q8, sizes and first and last address. -/
theorem test_snapshot_ranges :
    ((snapshot (createMemory 256) (.range (-5) 10000) [.range 10 12, .range 12 10, .range 300 400, .range (-9) (-1),
      .cell 7, .range 250 260]).ranges.map fun r => (r.size, r.cells.head?.map CellEntry.address,
        r.cells.getLast?.map CellEntry.address)) =
      [(256, some 0, some 255), (3, some 10, some 12), (0, none, none), (0, none, none), (0, none, none),
       (1, some 7, some 7), (6, some 250, some 255)] ∧
    (reportRange (createMemory 0) 0 0).cells = [] := by decide
/-- The report after program P2. -/
theorem test_snapshot_values :
    snapshot (Memory.preset 64 [(0, 17), (1, 99), (2, 58), (3, 99), (21, 99)]) (.range 0 3) [.cell 21] =
      { capacity := 64, rangeCount := 2, ranges :=
        [⟨0, 3, 4, [⟨0, 17, 0x11⟩, ⟨1, 99, 0x63⟩, ⟨2, 58, 0x3A⟩, ⟨3, 99, 0x63⟩]⟩, ⟨21, 21, 1, [⟨21, 99, 0x63⟩]⟩] } := by
  decide
/-- P4: the least capacity is 129. -/
theorem test_programCapacity :
    programCapacity [0x53, 0x01, 0xE0, 0, 0, 0, 0, 0x47, 0x01, 0x60, 0x01, 0x80, 0x01, 0, 0x74, 0x01, 0x00, 0xE1, 0x01,
      0, 0, 0x13, 0x00, 0x20, 0, 0, 0, 0] = 129 := by decide

/-! ### Witnesses: for each statement with hypotheses, values that meet them, at the boundary of each clause -/

/-- 256 cells, cell 5 holding 77. -/
def small : State := runOf [] 256 [(5, 77)]

/-- The start of a run of one word on `small`'s memory. -/
def oneWord (r : Record) : State := runOf (encode r) 256 [(5, 77)]

theorem witness_ReadGivesCellOrRaises : 255 < small.mem.capacity ∧ small.mem.capacity ≤ 256 := by decide
theorem witness_StoreOverwritesOneCell : 255 < small.mem.capacity ∧ small.mem.capacity ≤ 256 := by decide
theorem witness_MemoriesThatReadAlikeAreEqual :
    ∃ m m' : Memory, m.cells ≠ [] ∧ m.wf ∧ m'.wf ∧ m.capacity = m'.capacity ∧ ∀ a, memRead m a = memRead m' a := by
  have h : Memory.preset 4 [(1, 5), (2, 6)] = Memory.preset 4 [(2, 6), (1, 4), (1, 5)] := by decide
  exact ⟨Memory.preset 4 [(1, 5), (2, 6)], Memory.preset 4 [(2, 6), (1, 4), (1, 5)], by decide, by decide, by decide,
    rfl, fun a => by rw [h]⟩
theorem witness_LoadConstStoresConstant : directAddress 255 < small.mem.capacity := by decide
theorem witness_ReadCopiesCell :
    directAddress 5 < small.mem.capacity ∧ directAddress 255 < small.mem.capacity := by decide
theorem witness_WriteCopiesCellToSum :
    directAddress 5 < small.mem.capacity ∧ writeTarget 31 224 < small.mem.capacity := by decide
theorem witness_MaxStoresLargerCell : directAddress 5 < small.mem.capacity ∧ directAddress 0 < small.mem.capacity ∧
    directAddress 255 < small.mem.capacity := by decide
theorem witness_AddressFaultsInAccessOrder :
    small.mem.capacity ≤ directAddress 256 ∧
    (directAddress 255 < small.mem.capacity ∧ small.mem.capacity ≤ directAddress 256) ∧
    (directAddress 255 < small.mem.capacity ∧ small.mem.capacity ≤ writeTarget 31 225) ∧
    (directAddress 255 < small.mem.capacity ∧ directAddress 0 < small.mem.capacity ∧
      small.mem.capacity ≤ directAddress 256) := by decide
theorem witness_FirstFailingAccessIsReported :
    firstOutOfBounds small.mem.capacity (.max 255 256 257) = some 257 ∧
    firstOutOfBounds small.mem.capacity (.max 255 0 255) = none := by decide
theorem witness_OneConditionForEachWord : small.fault = none := rfl
theorem witness_AccessesAreBoundedAndOrdered :
    (AccessKind.store, 65566) ∈ accesses (.write 0 31 65535) ∧
    (AccessKind.store, 65536) ∈ accesses (.write 0 1 65535) := by decide
theorem witness_WriteTargetDoesNotWrap :
    (directAddress 0 < (runOf [] 65566 []).mem.capacity ∧ (runOf [] 65566 []).mem.capacity ≤ 65566) ∧
    (directAddress 0 < (runOf [] 65567 []).mem.capacity ∧ 65567 ≤ (runOf [] 65567 []).mem.capacity) ∧
    (directAddress 0 < (runOf [] 65536 []).mem.capacity ∧ (runOf [] 65536 []).mem.capacity ≤ 65536) := by decide
theorem witness_SelfCopyLeavesMemory :
    small.mem.wf ∧ directAddress 5 < small.mem.capacity ∧ writeTarget 2 3 = directAddress 5 := by decide
theorem witness_MaxSourcesCommute :
    directAddress 5 < small.mem.capacity ∧ directAddress 255 < small.mem.capacity := by decide
theorem witness_InstructionOrderDeterminesVisibility :
    (directAddress 100 < (runOf [] 256 []).mem.capacity ∧ directAddress 255 < (runOf [] 256 []).mem.capacity ∧
      (255 : Addr) ≠ 100) ∧ (runOf [] 256 []).mem = createMemory (runOf [] 256 []).mem.capacity := by decide
theorem witness_UnknownTagIsRecordedNoOp :
    ((Instr.unknownOpcode0, 0#5) ∈ ([
      (.unknownOpcode0, 0#5), (.unknownOpcode1, 1#5), (.unknownOpcode2, 2#5), (.unknownOpcode4, 4#5),
      (.unknownOpcode5, 5#5), (.unknownOpcode6, 6#5), (.unknownOpcode8, 8#5), (.unknownOpcode9, 9#5),
      (.unknownOpcode10, 10#5), (.unknownOpcode11, 11#5), (.unknownOpcode12, 12#5), (.unknownOpcode13, 13#5),
      (.unknownOpcode14, 14#5), (.unknownOpcode15, 15#5), (.unknownOpcode16, 16#5), (.unknownOpcode17, 17#5),
      (.unknownOpcode18, 18#5), (.unknownOpcode21, 21#5), (.unknownOpcode22, 22#5), (.unknownOpcode23, 23#5),
      (.unknownOpcode24, 24#5), (.unknownOpcode25, 25#5), (.unknownOpcode26, 26#5), (.unknownOpcode27, 27#5),
      (.unknownOpcode28, 28#5), (.unknownOpcode29, 29#5), (.unknownOpcode30, 30#5), (.unknownOpcode31, 31#5)] : List (Instr × Tag))) := by decide
theorem witness_UnpackOfPackIsTruncation :
    (Record.write 65535 31 0).wellFormed = true ∧ (Record.loadConst 0 1048575).wellFormed = true := by decide
/-- The words 19, 3, 20, 7 and 31 have the five remainders that the clauses name. -/
theorem witness_UnpackExtractsFields :
    ([0x13, 0x03, 0x14, 0x07].map fun b : Byte => b.toNat % 32) = [19, 3, 20, 7] ∧
    (0x1F : Byte).toNat % 32 ∉ [3, 7, 19, 20] ∧ (0x00 : Byte).toNat % 32 ∉ [3, 7, 19, 20] := by decide
theorem witness_FetchIsLittleEndian : 0 + 7 ≤ (encode (.loadConst 1 1)).length := by decide
theorem witness_StepRunsTheDecodedInstruction :
    (oneWord (.read 0 5)).fault = none ∧
    decode ((oneWord (.read 0 5)).prog.drop (oneWord (.read 0 5)).ip) = .ok (.read 0 5, []) := by decide
theorem witness_StepIsEnabledExactlyInARun :
    ((oneWord (.read 0 5)).fault = none ∧ 7 ≤ (oneWord (.read 0 5)).prog.length - (oneWord (.read 0 5)).ip) ∧
    (∃ r, { small with fault := halted 256 0 }.fault = some r) ∧
    (small.fault = none ∧ small.prog.length - small.ip < 7) := ⟨by decide, ⟨_, rfl⟩, by decide⟩
theorem witness_StepAdvancesOrFaults :
    (∃ t, step (oneWord (.read 0 5)) = .next t ∧ t.fault = none) ∧
    ∃ t, step (oneWord (.read 0 256)) = .next t ∧ t.fault = halted 256 0 := ⟨⟨_, rfl, rfl⟩, ⟨_, rfl, rfl⟩⟩
theorem witness_StepCountsItsWord :
    (∃ t w, step (oneWord (.max 0 1 5)) = .next t ∧ fetch (oneWord (.max 0 1 5)).prog 0 = some w ∧ t.fault = none) ∧
    (∃ t w, step (oneWord (.max 0 1 256)) = .next t ∧ fetch (oneWord (.max 0 1 256)).prog 0 = some w ∧
      t.fault.isSome = true) ∧
    ∃ t w, step (small.withFetchWord 56 31) = .next t ∧
      fetch (small.withFetchWord 56 31).prog 0 = some w ∧ t.fault = none :=
  ⟨⟨_, _, rfl, rfl, rfl⟩, ⟨_, _, rfl, rfl, rfl⟩, ⟨_, _, rfl, rfl, rfl⟩⟩
theorem witness_StepKeepsParameters : ∃ t, step (oneWord (.loadConst 255 1)) = .next t := ⟨_, rfl⟩
theorem witness_StepKeepsCellsBelowWidth :
    20 ≤ 20 ∧ (oneWord (.loadConst 255 1048575)).mem.fits 20 ∧
    ∃ t, step (oneWord (.loadConst 255 1048575)) = .next t := ⟨by decide, by decide, _, rfl⟩
/-- A state that meets the invariant and steps: a word of each kind has run, the cells are 20 bits wide. -/
theorem witness_StepKeepsInvariant :
    ∃ s t : State, s.cellBits = some 20 ∧ s.Inv ∧ step s = .next t := by
  let s : State :=
    { prog := encode (.loadConst 5 77) ++ [31, 0, 0, 0, 0, 0, 0] ++ encode (.max 5 6 0), cellBits := some 20, ip := 14,
      mem := Memory.preset 256 [(5, 77)], nExec := 1, nMax := 0, nUnknown := 1, events := [⟨1, 31#5⟩], fault := none }
  refine ⟨s, _, rfl, ⟨by decide, ?_, ?_, by decide, by decide, by decide, by decide, by decide, by decide, ?_, ?_⟩, rfl⟩
  · intro n h; cases h; decide
  · intro n h; cases h; decide
  · intro e he
    rw [List.mem_singleton.1 he]
    exact ⟨by decide, by decide, _, rfl, by decide⟩
  · intro r h; cases h
theorem witness_StartOfRunState : 255 < 256 := by decide
theorem witness_StartMeetsInvariant :
    (RunInput.mk (encode (.read 0 5)) (Memory.preset 256 [(5, 1048575)]) (some 20)).wellFormed = true := by decide
theorem witness_NormalEndCountsEveryWord :
    RunInput.safe ⟨encode (.read 0 5), createMemory 256, none⟩ := by unfold RunInput.safe; decide
/-- A run with an unknown word ends normally too. -/
theorem witness_EventsAreTheUnknownWordsInOrder :
    RunInput.safe ⟨[31, 0, 0, 0, 0, 0, 0], createMemory 256, none⟩ ∧
    RunInput.safe ⟨encode (.read 0 5), createMemory 256, none⟩ := by unfold RunInput.safe; decide
theorem witness_HaltedRunIsPrecise :
    (execute ⟨encode (.read 0 256), createMemory 256, none⟩).fault = halted 256 0 := by decide
/-- A set bit 55 and a trailing fragment against neither. -/
theorem witness_UnusedBitsAndFragmentsAreInvisible :
    (programWords [0x13, 0, 0x20, 0, 0, 0, 0x80, 0x13]).map decodeWord =
      (programWords [0x13, 0, 0x20, 0, 0, 0, 0]).map decodeWord := by decide
theorem witness_FaultsDoNotDependOnData :
    (Memory.preset 256 [(5, 77)]).capacity = (createMemory 256).capacity ∧
    Memory.preset 256 [(5, 77)] ≠ createMemory 256 := by decide
theorem witness_LargeMemoryNeverFaults :
    65567 ≤ (createMemory 65567).capacity ∧ (65536 ≤ (createMemory 65536).capacity ∧
      ∀ w ∈ programWords ([7, 0, 0, 0, 0, 0, 0]), tagOf w ≠ 20#5) :=
  ⟨by rw [createMemory_capacity], by rw [createMemory_capacity], fun w hw => by rw [List.mem_singleton.1 hw]; decide⟩
theorem witness_SnapshotStaysInsideMemory :
    (∃ r ∈ (snapshot (createMemory 256) (.cell 255) []).ranges, ∃ e ∈ r.cells, e.address = 255) ∧
    (createMemory 256).capacity = 256 := by decide
theorem witness_SnapshotReportsClampedRange :
    (max (255 : Int) 0 ≤ min 300 (((createMemory 256).capacity : Int) - 1) ∧
      ∃ e, (reportRange (createMemory 256) 255 300).cells[0]? = some e) ∧
    min (300 : Int) (((createMemory 256).capacity : Int) - 1) < max 256 0 := ⟨⟨by decide, _, rfl⟩, by decide⟩
theorem witness_HostReadsOnlyAfterTheRun :
    (oneWord (.read 0 5)).enabled = true ∧ small.enabled = false := by decide

end Sys2Proof.Tests
end

/-! ### Masking is the floor remainder -/

namespace Sys2Proof

/-- R6 with decision D12: the mask as an integer. -/
theorem mask_toNat_eq_emod (n : Nat) (v : Int) : ((mask n v).toNat : Int) = v % 2 ^ n := by
  have hpos : (0 : Int) < 2 ^ n := by positivity
  have hnonneg : 0 ≤ v % 2 ^ n := Int.emod_nonneg v hpos.ne'
  have hlt : v % 2 ^ n < 2 ^ n := Int.emod_lt_of_pos v hpos
  simp only [mask, BitVec.toNat_ofNat]
  rw [Nat.mod_eq_of_lt, Int.toNat_of_nonneg hnonneg]
  zify
  rwa [Int.toNat_of_nonneg hnonneg]

/-- For a natural number the remainder is `Nat`'s own. -/
theorem mask_natCast_toNat (n v : Nat) : (mask n (v : Int)).toNat = v % 2 ^ n := by
  exact_mod_cast mask_toNat_eq_emod n v

/-- Settles O27: the floor remainder is `v` less the multiple of `2^n` below it, and for a natural number the remainder
modulo a power of two is the bitwise AND with the power less one. -/
theorem maskIsRemainder : Obligations.MaskIsRemainder := by
  unfold Obligations.MaskIsRemainder
  intro n
  constructor
  · intro v
    rw [mask_toNat_eq_emod, Int.emod_def]
  · intro v
    rw [mask_natCast_toNat, Nat.and_two_pow_sub_one_eq_mod]

end Sys2Proof

/-! ### What a step can do, and the parameters of the run -/

namespace Sys2Proof.Machine

/-- A chain of accesses is done exactly when each of its parts is (R8). -/
theorem Access.andThen_eq_done {α β : Type} {r : Access α} {f : α → Access β} {y : β} :
    r.andThen f = .done y ↔ ∃ x, r = .done x ∧ f x = .done y := by
  cases r <;> simp

/-- A write that is done lies inside the array and sets one cell (R36). -/
theorem memWrite_eq_done {m m' : Memory} {a v : Nat} :
    memWrite m a v = .done m' ↔ a < m.capacity ∧ m' = m.set a v := by
  rcases memWrite_cases m a v with ⟨h, hw⟩ | ⟨h, hw⟩
  · simp [hw, h, eq_comm]
  · simp [hw, Nat.not_lt.2 h]

/-- An instruction whose accesses are all done has set exactly one cell, inside the array (R100, R105, R110, R117). -/
theorem storeOf_done_sets_cell {m m' : Memory} {i : Instr} {k : Nat} (h : storeOf m i = some (k, .done m')) :
    ∃ a v, a < m.capacity ∧ m' = m.set a v := by
  cases i
  case loadConst address constant =>
    simp only [storeOf, Option.some.injEq, Prod.mk.injEq] at h
    obtain ⟨-, hw⟩ := h
    exact ⟨_, _, memWrite_eq_done.1 hw⟩
  case read dstAddr srcAddr =>
    simp only [storeOf, Option.some.injEq, Prod.mk.injEq, Access.andThen_eq_done] at h
    obtain ⟨-, v, -, hw⟩ := h
    exact ⟨_, _, memWrite_eq_done.1 hw⟩
  case write srcAddr offset baseAddr =>
    simp only [storeOf, Option.some.injEq, Prod.mk.injEq, Access.andThen_eq_done] at h
    obtain ⟨-, v, -, hw⟩ := h
    exact ⟨_, _, memWrite_eq_done.1 hw⟩
  case max addrB addrC addrD =>
    simp only [storeOf, Option.some.injEq, Prod.mk.injEq, Access.andThen_eq_done] at h
    obtain ⟨-, b, -, d, -, hw⟩ := h
    exact ⟨_, _, memWrite_eq_done.1 hw⟩
  all_goals cases h

/-- A step to a next state does one of three things (R80): it completes an instruction with one cell set inside the
array, it takes the fault of an access, or it records a word with an unknown tag. -/
theorem step_next_cases {s t : State} (h : step s = .next t) :
    s.fault = none ∧ ∃ w, fetch s.prog s.ip = some w ∧
      ((∃ k a v, storeOf s.mem (decodeWord w) = some (k, .done (s.mem.set a v)) ∧ a < s.mem.capacity ∧
          t = s.complete k (.done (s.mem.set a v))) ∨
       (∃ k a, storeOf s.mem (decodeWord w) = some (k, .raised a) ∧ t = s.takeAddressFault a) ∨
       (storeOf s.mem (decodeWord w) = none ∧ t = s.recordUnknown (decodeWord w).tag)) := by
  obtain ⟨hf, w, hw, he⟩ := step_next h
  refine ⟨hf, w, hw, ?_⟩
  rcases exec_cases (decodeWord w) s with ⟨k, r, hr, -, hx⟩ | ⟨hr, -, hx⟩
  · obtain rfl : s.complete k r = t := Host.Outcome.next.inj (hx.symm.trans he)
    cases r with
    | done m =>
      obtain ⟨a, v, ha, rfl⟩ := storeOf_done_sets_cell hr
      exact .inl ⟨k, a, v, hr, ha, rfl⟩
    | raised a => exact .inr (.inl ⟨k, a, hr, s.complete_raised k a⟩)
  · exact .inr (.inr ⟨hr, (Host.Outcome.next.inj (hx.symm.trans he)).symm⟩)

/-- Settles O39: each of the three things a step can do leaves the program store and the cell width, and the one that
stores sets a cell, which keeps the capacity. -/
theorem stepKeepsParameters : Obligations.StepKeepsParameters := by
  unfold Obligations.StepKeepsParameters
  intro s t h
  obtain ⟨-, w, -, ⟨k, a, v, -, -, rfl⟩ | ⟨k, a, -, rfl⟩ | ⟨-, rfl⟩⟩ := step_next_cases h
  · simp
  · simp
  · simp

end Sys2Proof.Machine

/-! ### The tag of a word and the meaning of what it unpacks to -/

namespace Sys2Proof

/-- An outcome carries the tag of the word it was unpacked from (R57, R63). -/
@[simp] theorem tag_decodeWord (w : Word) : (decodeWord w).tag = tagOf w := by
  rcases decodeWord_cases w with ⟨ht, hd⟩ | ⟨ht, hd⟩ | ⟨ht, hd⟩ | ⟨ht, hd⟩ | ⟨ht, hd⟩
  · rw [hd, ht, Instr.tag]
  · rw [hd, ht, Instr.tag]
  · rw [hd, ht, Instr.tag]
  · rw [hd, ht, Instr.tag]
  · rw [hd, (unknownOutcome_spec _ ht).2]

/-- A word unpacks to no instruction exactly when its tag is unknown (R57, R63). -/
theorem wellFormed_decodeWord_eq_false {w : Word} :
    (decodeWord w).wellFormed = false ↔ tagOf w ∉ [3#5, 7#5, 19#5, 20#5] := by
  rcases decodeWord_cases w with ⟨ht, hd⟩ | ⟨ht, hd⟩ | ⟨ht, hd⟩ | ⟨ht, hd⟩ | ⟨ht, hd⟩
  · simp [hd, ht, Instr.wellFormed]
  · simp [hd, ht, Instr.wellFormed]
  · simp [hd, ht, Instr.wellFormed]
  · simp [hd, ht, Instr.wellFormed]
  · simp only [hd, (unknownOutcome_spec _ ht).1, ht, not_false_eq_true]

end Sys2Proof

namespace Sys2Proof.Machine

/-- Only the four instructions make accesses (R85). -/
theorem storeOf_eq_none {m : Memory} {i : Instr} : storeOf m i = none ↔ i.wellFormed = false := by
  cases i <;> simp [storeOf, Instr.wellFormed]

/-- A word makes no access exactly when its tag is unknown (R85). -/
theorem storeOf_decodeWord_eq_none {m : Memory} {w : Word} :
    storeOf m (decodeWord w) = none ↔ tagOf w ∉ [3#5, 7#5, 19#5, 20#5] :=
  storeOf_eq_none.trans wellFormed_decodeWord_eq_false

end Sys2Proof.Machine

/-! ### What the accesses of an instruction can store, count and report -/

namespace Sys2Proof.Machine

/-- A read that is done gives the cell (R35). -/
theorem memRead_eq_done {m : Memory} {a v : Nat} : memRead m a = .done v ↔ a < m.capacity ∧ v = m.cell a := by
  rcases memRead_cases m a with ⟨h, hr⟩ | ⟨h, hr⟩
  · simp [hr, h, eq_comm]
  · simp [hr, Nat.not_lt.2 h]

/-- A read raises outside the array, with its own address (R35). -/
theorem memRead_eq_raised {m : Memory} {a b : Nat} : memRead m a = .raised b ↔ m.capacity ≤ a ∧ b = a := by
  rcases memRead_cases m a with ⟨h, hr⟩ | ⟨h, hr⟩
  · simp [hr, Nat.not_le.2 h]
  · simp [hr, h, eq_comm]

/-- A write raises outside the array, with its own address (R36). -/
theorem memWrite_eq_raised {m : Memory} {a b v : Nat} : memWrite m a v = .raised b ↔ m.capacity ≤ a ∧ b = a := by
  rcases memWrite_cases m a v with ⟨h, hw⟩ | ⟨h, hw⟩
  · simp [hw, Nat.not_le.2 h]
  · simp [hw, h, eq_comm]

/-- A chain of accesses raises where its first part that is not done does (R8, R156). -/
theorem Access.andThen_eq_raised {α β : Type} {r : Access α} {f : α → Access β} {a : Nat} :
    r.andThen f = .raised a ↔ r = .raised a ∨ ∃ x, r = .done x ∧ f x = .raised a := by
  cases r <;> simp

theorem addr_le (a : Addr) : a.toNat ≤ 65535 := Nat.le_of_lt_succ a.isLt

/-- The sum of `Write` reaches at most 65566 (R37, R111). -/
theorem writeTarget_le (offset : Offset) (baseAddr : Addr) : writeTarget offset baseAddr ≤ 65566 :=
  Nat.add_le_add (addr_le baseAddr) (Nat.le_of_lt_succ offset.isLt)

theorem maxCell_lt {b d n : Nat} (hb : b < n) (hd : d < n) : maxCell b d < n := by
  unfold maxCell
  split
  · exact hb
  · exact hd

/-- An access that an instruction reports lies outside the array, at an address that can be named (R37, R157). -/
theorem storeOf_raised_bounds {m : Memory} {i : Instr} {k a : Nat} (h : storeOf m i = some (k, .raised a)) :
    m.capacity ≤ a ∧ a ≤ 65566 := by
  cases i
  case loadConst address constant =>
    simp only [storeOf, Option.some.injEq, Prod.mk.injEq, memWrite_eq_raised] at h
    obtain ⟨-, hc, rfl⟩ := h
    exact ⟨hc, (addr_le address).trans (by decide)⟩
  case read dstAddr srcAddr =>
    simp only [storeOf, Option.some.injEq, Prod.mk.injEq, Access.andThen_eq_raised, memRead_eq_raised,
      memWrite_eq_raised] at h
    obtain ⟨-, ⟨hc, rfl⟩ | ⟨-, -, hc, rfl⟩⟩ := h
    · exact ⟨hc, (addr_le srcAddr).trans (by decide)⟩
    · exact ⟨hc, (addr_le dstAddr).trans (by decide)⟩
  case write srcAddr offset baseAddr =>
    simp only [storeOf, Option.some.injEq, Prod.mk.injEq, Access.andThen_eq_raised, memRead_eq_raised,
      memWrite_eq_raised] at h
    obtain ⟨-, ⟨hc, rfl⟩ | ⟨-, -, hc, rfl⟩⟩ := h
    · exact ⟨hc, (addr_le srcAddr).trans (by decide)⟩
    · exact ⟨hc, writeTarget_le offset baseAddr⟩
  case max addrB addrC addrD =>
    simp only [storeOf, Option.some.injEq, Prod.mk.injEq, Access.andThen_eq_raised, memRead_eq_raised,
      memWrite_eq_raised] at h
    obtain ⟨-, ⟨hc, rfl⟩ | ⟨-, -, ⟨hc, rfl⟩ | ⟨-, -, hc, rfl⟩⟩⟩ := h
    · exact ⟨hc, (addr_le addrB).trans (by decide)⟩
    · exact ⟨hc, (addr_le addrD).trans (by decide)⟩
    · exact ⟨hc, (addr_le addrC).trans (by decide)⟩
  all_goals cases h

/-- An instruction counts at most one `Max` operation (R87). -/
theorem storeOf_maxOps_le {m : Memory} {i : Instr} {k : Nat} {r : Access Memory} (h : storeOf m i = some (k, r)) :
    k ≤ 1 := by
  cases i
  case max => obtain ⟨rfl, -⟩ := Prod.mk.inj (Option.some.inj h); exact Nat.le_refl 1
  case loadConst | read | write => obtain ⟨rfl, -⟩ := Prod.mk.inj (Option.some.inj h); exact Nat.zero_le 1
  all_goals cases h

/-- An instruction stores its 20-bit constant or the value of a cell, so the memory it leaves fits a cell of at least 20
bits when the one before did (R15). -/
theorem storeOf_done_fits {m m' : Memory} {i : Instr} {k n : Nat} (hn : 20 ≤ n) (hm : m.fits n)
    (h : storeOf m i = some (k, .done m')) : m'.fits n := by
  cases i
  case loadConst address constant =>
    simp only [storeOf, Option.some.injEq, Prod.mk.injEq, memWrite_eq_done] at h
    obtain ⟨-, -, rfl⟩ := h
    exact Memory.set_fits hm (constant.isLt.trans_le (Nat.pow_le_pow_right (by decide) hn))
  case read dstAddr srcAddr =>
    simp only [storeOf, Option.some.injEq, Prod.mk.injEq, Access.andThen_eq_done, memRead_eq_done,
      memWrite_eq_done] at h
    obtain ⟨-, v, ⟨-, rfl⟩, -, rfl⟩ := h
    exact Memory.set_fits hm (Memory.cell_lt hm _)
  case write srcAddr offset baseAddr =>
    simp only [storeOf, Option.some.injEq, Prod.mk.injEq, Access.andThen_eq_done, memRead_eq_done,
      memWrite_eq_done] at h
    obtain ⟨-, v, ⟨-, rfl⟩, -, rfl⟩ := h
    exact Memory.set_fits hm (Memory.cell_lt hm _)
  case max addrB addrC addrD =>
    simp only [storeOf, Option.some.injEq, Prod.mk.injEq, Access.andThen_eq_done, memRead_eq_done,
      memWrite_eq_done] at h
    obtain ⟨-, b, ⟨-, rfl⟩, d, ⟨-, rfl⟩, -, rfl⟩ := h
    exact Memory.set_fits hm (maxCell_lt (Memory.cell_lt hm _) (Memory.cell_lt hm _))
  all_goals cases h

/-- Settles O40: of the three things a step can do only the completed instruction changes the memory, and what it stores
fits. -/
theorem stepKeepsCellsBelowWidth : Obligations.StepKeepsCellsBelowWidth := by
  unfold Obligations.StepKeepsCellsBelowWidth
  intro n s t hn hfits h
  obtain ⟨-, w, -, ⟨k, a, v, hr, -, rfl⟩ | ⟨k, a, -, rfl⟩ | ⟨-, rfl⟩⟩ := step_next_cases h
  · exact storeOf_done_fits hn hfits hr
  · exact hfits
  · exact hfits

end Sys2Proof.Machine

/-! ### Every step keeps the invariant -/

namespace Sys2Proof.Machine

/-- A fetched word lies inside the program (R81). -/
theorem fetch_inside {prog : List Byte} {p : Nat} {w : Word} (h : fetch prog p = some w) : p + 7 ≤ prog.length := by
  have := (fetch_isSome prog p).1 (by simp [h])
  omega

/-- Every event of a state that meets the invariant is one that the state after the next word may hold too. -/
theorem State.Inv.eventsTrue_advance {s : State} (h : s.Inv) : ∀ e ∈ s.events, e.index < (s.ip + 7) / 7 ∧
    e.tag ∉ [3#5, 7#5, 19#5, 20#5] ∧ ∃ w, fetch s.prog (7 * e.index) = some w ∧ tagOf w = e.tag := by
  intro e he
  obtain ⟨hlt, htrue⟩ := h.eventsTrue e he
  exact ⟨by omega, htrue⟩

/-- Completing an instruction keeps the invariant: the memory it leaves is canonical and fits, and its word is counted
once (R83, R87). -/
theorem State.Inv.complete_done {s : State} {k : Nat} {m : Memory} (h : s.Inv) (hf : s.fault = none)
    (hip : s.ip + 7 ≤ s.prog.length) (hk : k ≤ 1) (hm : m.wf)
    (hfits : ∀ n, s.cellBits = some n → m.fits n) : (s.complete k (.done m)).Inv where
  memory := hm
  cellWidth := h.cellWidth
  cellsFit := hfits
  ipAligned := by have := h.ipAligned; simp only [complete_done_ip]; omega
  ipInside := hip
  counted := by have := h.counted; simp only [complete_done_nExec, complete_done_nUnknown, complete_done_ip]; omega
  maxCounted := Nat.add_le_add h.maxCounted hk
  eventsCounted := h.eventsCounted
  eventsOrdered := h.eventsOrdered
  eventsTrue := h.eventsTrue_advance
  faultLegal := by simp [hf]

/-- Taking the fault of an access outside the array keeps the invariant: nothing else changes (R157). -/
theorem State.Inv.takeAddressFault {s : State} {a : Nat} (h : s.Inv) (hc : s.mem.capacity ≤ a) (ha : a ≤ 65566) :
    (s.takeAddressFault a).Inv :=
  { h with faultLegal := fun r hr => by cases hr; exact ⟨rfl, hc, ha, rfl⟩ }

/-- Recording an unknown word keeps the invariant: its event is true, and later than every event before it (R85). -/
theorem State.Inv.recordUnknown {s : State} {w : Word} (h : s.Inv) (hf : s.fault = none)
    (hw : fetch s.prog s.ip = some w) (ht : tagOf w ∉ [3#5, 7#5, 19#5, 20#5]) : (s.recordUnknown (tagOf w)).Inv where
  memory := h.memory
  cellWidth := h.cellWidth
  cellsFit := h.cellsFit
  ipAligned := by have := h.ipAligned; simp only [recordUnknown_ip]; omega
  ipInside := fetch_inside hw
  counted := by have := h.counted; simp only [recordUnknown_nExec, recordUnknown_nUnknown, recordUnknown_ip]; omega
  maxCounted := h.maxCounted
  eventsCounted := by simp [h.eventsCounted]
  eventsOrdered := by
    rw [recordUnknown_events, List.pairwise_append]
    refine ⟨h.eventsOrdered, List.pairwise_singleton _ _, fun e he f hlast => ?_⟩
    rw [List.mem_singleton.1 hlast]
    exact (h.eventsTrue e he).1
  eventsTrue := by
    intro e he
    rw [recordUnknown_events, List.mem_append, List.mem_singleton] at he
    rcases he with he | rfl
    · exact h.eventsTrue_advance e he
    · have hip : 7 * (s.ip / 7) = s.ip := Nat.mul_div_cancel' (Nat.dvd_of_mod_eq_zero h.ipAligned)
      exact ⟨by simp only [recordUnknown_ip]; omega, ht, w, (congrArg (fetch s.prog) hip).trans hw, rfl⟩
  faultLegal := by simp [hf]

/-- Settles O41: each of the three things a step can do keeps the invariant. -/
theorem stepKeepsInvariant : Obligations.StepKeepsInvariant := by
  unfold Obligations.StepKeepsInvariant
  intro s t hs h
  obtain ⟨hf, w, hw, ⟨k, a, v, hr, ha, rfl⟩ | ⟨k, a, hr, rfl⟩ | ⟨hr, rfl⟩⟩ := step_next_cases h
  · exact hs.complete_done hf (fetch_inside hw) (storeOf_maxOps_le hr) (Memory.set_wf hs.memory ha)
      fun n hn => storeOf_done_fits (hs.cellWidth n hn) (hs.cellsFit n hn) hr
  · obtain ⟨hc, ha⟩ := storeOf_raised_bounds hr
    exact hs.takeAddressFault hc ha
  · rw [tag_decodeWord]
    exact hs.recordUnknown hf hw (storeOf_decodeWord_eq_none.1 hr)

end Sys2Proof.Machine

/-! ### Where a run starts -/

namespace Sys2Proof.Machine

/-- A well-formed input is canonical, and every width it names is legal and fits its values (R133, R172). -/
theorem RunInput.wellFormed_iff {input : RunInput} : input.wellFormed = true ↔
    input.mem.wf ∧ ∀ n, input.cellBits = some n → 20 ≤ n ∧ input.mem.fits n := by
  unfold RunInput.wellFormed
  cases input.cellBits <;> simp

/-- Settles O44: nothing has been counted, recorded or executed, so only the clauses on the memory and the cell width
say something, and the input's well-formedness is those. -/
theorem startMeetsInvariant : Obligations.StartMeetsInvariant := by
  unfold Obligations.StartMeetsInvariant
  intro input hin
  obtain ⟨hmem, hbits⟩ := RunInput.wellFormed_iff.1 hin
  exact
    { memory := hmem
      cellWidth := fun n hn => (hbits n hn).1
      cellsFit := fun n hn => (hbits n hn).2
      ipAligned := rfl
      ipInside := Nat.zero_le _
      counted := by simp
      maxCounted := Nat.le_refl 0
      eventsCounted := rfl
      eventsOrdered := .nil
      eventsTrue := by simp
      faultLegal := by simp }

/-- Settles O43: reset is the start of a run on a fresh memory with unbounded cells, a well-formed input. -/
theorem resetMeetsInvariant : Obligations.ResetMeetsInvariant :=
  startMeetsInvariant _ (RunInput.wellFormed_iff.2 ⟨createMemory_wf _, by simp⟩)

/-- Settles O42: the start state is the record written out, and a read inside a fresh memory gives its cell, which is
0. -/
theorem startOfRunState : Obligations.StartOfRunState := by
  unfold Obligations.StartOfRunState
  intro input
  refine ⟨rfl, fun capacity a ha => ?_⟩
  rw [memRead_inside (by rwa [createMemory_capacity]), createMemory_cell]

/-- Settles O45: one field of `nextRun` after the other. -/
theorem nextRunKeepsOnlyMemory : Obligations.NextRunKeepsOnlyMemory := by
  unfold Obligations.NextRunKeepsOnlyMemory
  intro s prog
  exact ⟨s.nextRun_mem prog, s.nextRun_prog prog, s.nextRun_ip prog, s.nextRun_nExec prog, s.nextRun_nMax prog,
    s.nextRun_nUnknown prog, s.nextRun_events prog, s.nextRun_fault prog⟩

end Sys2Proof.Machine

/-! ### The canonical form of a memory -/

namespace Sys2Proof.Machine

/-- The cells listed in canonical form are those that read as something other than 0 (R14). -/
theorem Memory.mem_cells_iff {m : Memory} (h : m.wf) {c : Nat × Nat} :
    c ∈ m.cells ↔ memRead m c.1 = .done c.2 ∧ c.2 ≠ 0 := by
  constructor
  · intro hc
    obtain ⟨hlt, hne⟩ := h.2 c hc
    exact ⟨memRead_eq_done.2 ⟨hlt, (lookupCell_of_mem h.1 hc).symm⟩, hne⟩
  · rintro ⟨hr, hne⟩
    obtain ⟨-, hv⟩ := memRead_eq_done.1 hr
    by_cases hlisted : ∃ d ∈ m.cells, d.1 = c.1
    · obtain ⟨d, hd, hdc⟩ := hlisted
      have hval : d.2 = c.2 := by rw [hv, ← hdc]; exact (lookupCell_of_mem h.1 hd).symm
      rwa [← Prod.ext hdc hval]
    · have hzero : m.cell c.1 = 0 := lookupCell_of_forall_ne fun d hd hdc => hlisted ⟨d, hd, hdc⟩
      exact absurd (hv.trans hzero) hne

/-- Settles O3: memories that read alike list the same cells, and its members determine a list in rising order. -/
theorem memoriesThatReadAlikeAreEqual : Obligations.MemoriesThatReadAlikeAreEqual := by
  unfold Obligations.MemoriesThatReadAlikeAreEqual
  intro m m' hm hm' hcap hread
  have hmem : ∀ c, c ∈ m.cells ↔ c ∈ m'.cells := fun c => by
    rw [Memory.mem_cells_iff hm, Memory.mem_cells_iff hm', hread]
  have : Std.Irrefl fun c d : Nat × Nat => c.1 < d.1 := ⟨fun _ => Nat.lt_irrefl _⟩
  have : Std.Antisymm fun c d : Nat × Nat => c.1 < d.1 := ⟨fun _ _ h h' => absurd h' (Nat.lt_asymm h)⟩
  have hcells : m.cells = m'.cells := List.Pairwise.eq_of_mem_iff hm.1 hm'.1 hmem
  exact congrArg₂ Memory.mk hcap hcells

end Sys2Proof.Machine

/-! ### The words of a program, and the event log of a run -/

namespace Sys2Proof.Machine

/-- The words from an offset on begin with the one fetched there (R67, R81). -/
theorem programWords_drop_of_fetch {prog : List Byte} {p : Nat} {w : Word} (h : fetch prog p = some w) :
    programWords (prog.drop p) = w :: programWords (prog.drop (p + 7)) := by
  unfold fetch at h
  split at h
  next b0 b1 b2 b3 b4 b5 b6 rest hd =>
    rw [← List.drop_drop, hd, programWords, Option.some.inj h]
    rfl
  next => cases h

/-- A program has one word for each 7 whole bytes (R67). -/
theorem programWords_length : ∀ bytes : List Byte, (programWords bytes).length = bytes.length / 7
  | b0 :: b1 :: b2 :: b3 :: b4 :: b5 :: b6 :: rest => by
    simp only [programWords, List.length_cons, programWords_length rest]
    omega
  | [] | [_] | [_, _] | [_, _, _] | [_, _, _, _] | [_, _, _, _, _] | [_, _, _, _, _, _] => by simp [programWords]

/-- A word is fetched where the program still has words. -/
theorem fetch_of_programWords_drop {prog : List Byte} {p : Nat} {w : Word} {ws : List Word}
    (h : programWords (prog.drop p) = w :: ws) : fetch prog p = some w ∧ programWords (prog.drop (p + 7)) = ws := by
  have hlen : 7 ≤ prog.length - p := by
    have := programWords_length (prog.drop p)
    rw [h, List.length_cons, List.length_drop] at this
    omega
  obtain ⟨w', hw'⟩ := Option.isSome_iff_exists.1 ((fetch_isSome prog p).2 hlen)
  obtain ⟨rfl, rfl⟩ := List.cons.inj ((programWords_drop_of_fetch hw').symm.trans h)
  exact ⟨hw', rfl⟩

/-- Where a word can be fetched and no fault is recorded there is a next state (R80). -/
theorem step_exists_next {s : State} {w : Word} (hf : s.fault = none) (hw : fetch s.prog s.ip = some w) :
    ∃ t, step s = .next t := by
  rw [step_of_fetch hf hw]
  rcases exec_cases (decodeWord w) s with ⟨k, r, -, -, hx⟩ | ⟨-, -, hx⟩
  · exact ⟨_, hx⟩
  · exact ⟨_, hx⟩

theorem runSteps_of_next {s t : State} (h : step s = .next t) (fuel : Nat) :
    runSteps (fuel + 1) s = runSteps fuel t := by rw [runSteps, h]

/-- A halted run stays where it is (R80, R157). -/
theorem runSteps_of_fault {s : State} {r : FaultRecord} (h : s.fault = some r) (fuel : Nat) : runSteps fuel s = s := by
  cases fuel <;> simp [runSteps, step, h]

/-- The events of a list of words, the first of which has the index `k` (R19). -/
def unknownEvents (ws : List Word) (k : Nat) : List Event :=
  ((ws.zipIdx k).filter fun p => decide (tagOf p.1 ∉ [3#5, 7#5, 19#5, 20#5])).map fun p =>
    { index := p.2, tag := tagOf p.1 }

theorem unknownEvents_cons (w : Word) (ws : List Word) (k : Nat) :
    unknownEvents (w :: ws) k = unknownEvents [w] k ++ unknownEvents ws (k + 1) := by
  simp only [unknownEvents, ← List.map_append, ← List.filter_append, List.zipIdx_cons, List.zipIdx_nil,
    List.singleton_append]

theorem unknownEvents_known {w : Word} (h : tagOf w ∈ [3#5, 7#5, 19#5, 20#5]) (k : Nat) :
    unknownEvents [w] k = [] := by
  simp only [unknownEvents, List.zipIdx_singleton, List.filter_cons, h, not_true_eq_false, decide_false,
    Bool.false_eq_true, if_false, List.filter_nil, List.map_nil]

theorem unknownEvents_unknown {w : Word} (h : tagOf w ∉ [3#5, 7#5, 19#5, 20#5]) (k : Nat) :
    unknownEvents [w] k = [{ index := k, tag := tagOf w }] := by
  simp only [unknownEvents, List.zipIdx_singleton, List.filter_cons, h, not_false_eq_true, decide_true, if_true,
    List.filter_nil, List.map_cons, List.map_nil]

theorem unknownEvents_eq_nil {ws : List Word} {k : Nat} :
    unknownEvents ws k = [] ↔ ∀ w ∈ ws, tagOf w ∈ [3#5, 7#5, 19#5, 20#5] := by
  induction ws generalizing k with
  | nil => simp [unknownEvents]
  | cons w ws ih =>
    rw [unknownEvents_cons, List.append_eq_nil_iff, ih, List.forall_mem_cons]
    refine and_congr_left fun _ => ⟨fun hnil => ?_, fun h => unknownEvents_known h k⟩
    by_contra hu
    rw [unknownEvents_unknown hu] at hnil
    cases hnil

/-- A step that takes no fault advances, and appends the event of its word when the tag is unknown (R83, R85). -/
theorem step_next_events {s t : State} {w : Word} (h : step s = .next t) (hw : fetch s.prog s.ip = some w)
    (ht : t.fault = none) :
    t.ip = s.ip + 7 ∧ t.prog = s.prog ∧ t.events = s.events ++ unknownEvents [w] (s.ip / 7) := by
  obtain ⟨-, w', hw', hcases⟩ := step_next_cases h
  obtain rfl : w' = w := Option.some.inj (hw'.symm.trans hw)
  rcases hcases with ⟨k, a, v, hr, -, rfl⟩ | ⟨k, a, -, rfl⟩ | ⟨hr, rfl⟩
  · have hknown : tagOf w' ∈ [3#5, 7#5, 19#5, 20#5] := by
      by_contra hu
      rw [storeOf_decodeWord_eq_none.2 hu] at hr
      cases hr
    exact ⟨rfl, rfl, by rw [unknownEvents_known hknown, List.append_nil, State.complete_done_events]⟩
  · cases ht
  · exact ⟨rfl, rfl, by
      rw [unknownEvents_unknown (storeOf_decodeWord_eq_none.1 hr), State.recordUnknown_events, tag_decodeWord]⟩

/-- A run from any state that executes the words left, `ws`, and takes no fault appends their events to the log. -/
theorem runSteps_events (ws : List Word) {s : State} (hws : programWords (s.prog.drop s.ip) = ws)
    (hf : s.fault = none) (hend : (runSteps ws.length s).fault = none) :
    (runSteps ws.length s).events = s.events ++ unknownEvents ws (s.ip / 7) := by
  induction ws generalizing s with
  | nil => simp [runSteps, unknownEvents]
  | cons w ws ih =>
    obtain ⟨hw, hrest⟩ := fetch_of_programWords_drop hws
    obtain ⟨t, ht⟩ := step_exists_next hf hw
    rw [List.length_cons, runSteps_of_next ht] at hend ⊢
    have htf : t.fault = none := by
      cases hr : t.fault with
      | none => rfl
      | some r => rwa [runSteps_of_fault hr, hr] at hend
    obtain ⟨hip, hprog, hevents⟩ := step_next_events ht hw htf
    have hidx : t.ip / 7 = s.ip / 7 + 1 := by omega
    rw [ih (by rw [hprog, hip, hrest]) htf hend, hidx, hevents, unknownEvents_cons w ws, List.append_assoc]

/-- A run that ends normally logs the events of its program's words, and no others. -/
theorem execute_events {input : RunInput} (h : input.safe) :
    (execute input).events = unknownEvents (programWords input.prog) 0 := by
  unfold RunInput.safe execute at h
  unfold execute
  rw [← programWords_length] at h ⊢
  simpa using runSteps_events (programWords input.prog) (s := State.start input) (by simp) rfl h

/-- Settles O50: the log is that of the program's words, which is empty exactly when every tag is known. -/
theorem eventsAreTheUnknownWordsInOrder : Obligations.EventsAreTheUnknownWordsInOrder := by
  unfold Obligations.EventsAreTheUnknownWordsInOrder
  intro input h
  refine ⟨execute_events h, ?_⟩
  rw [RunInput.clean, execute_events h, unknownEvents_eq_nil]

end Sys2Proof.Machine

/-! ### The memory primitives, the accesses of an instruction, and their order -/

namespace Sys2Proof.Machine

theorem eraseCell_insertCell (cells : List (Nat × Nat)) (a v : Nat) :
    eraseCell (insertCell cells a v) a = eraseCell cells a := by
  induction cells with
  | nil => simp [insertCell, eraseCell]
  | cons c rest ih =>
    simp only [insertCell]
    split
    · simp [eraseCell]
    · simp only [eraseCell] at ih ⊢
      rw [List.filter_cons, List.filter_cons, ih]

theorem eraseCell_eraseCell (cells : List (Nat × Nat)) (a : Nat) :
    eraseCell (eraseCell cells a) a = eraseCell cells a := by
  simp [eraseCell]

/-- The list that a store leaves has the same other entries as the list it found. -/
theorem Memory.eraseCell_set (m : Memory) (a v : Nat) : eraseCell (m.set a v).cells a = eraseCell m.cells a := by
  simp only [Memory.set]
  split
  · exact eraseCell_eraseCell _ _
  · rw [eraseCell_insertCell, eraseCell_eraseCell]

/-- The last store to a cell is the one that counts (R36), as data, canonical form or not. -/
theorem Memory.set_set (m : Memory) (a v w : Nat) : (m.set a v).set a w = m.set a w := by
  rw [Memory.set, Memory.eraseCell_set]
  rfl

theorem memRead_set_same {m : Memory} {a : Nat} (v : Nat) (h : a < m.capacity) : memRead (m.set a v) a = .done v := by
  rw [memRead_inside (by rwa [Memory.set_capacity]), Memory.cell_set_same]

theorem memRead_set_other {m : Memory} {a b : Nat} (v : Nat) (h : b ≠ a) :
    memRead (m.set a v) b = memRead m b := by
  rw [memRead, memRead, Memory.set_capacity, Memory.cell_set_other _ _ h]

/-- Settles O1: the two cases of a read. -/
theorem readGivesCellOrRaises : Obligations.ReadGivesCellOrRaises := by
  unfold Obligations.ReadGivesCellOrRaises
  exact fun _ _ => ⟨memRead_inside, memRead_outside⟩

/-- Settles O2: inside the array the new memory is the old one with one cell set, and setting it again is setting it
once. -/
theorem storeOverwritesOneCell : Obligations.StoreOverwritesOneCell := by
  unfold Obligations.StoreOverwritesOneCell
  intro m a v
  refine ⟨fun ha => ⟨m.set a v, memWrite_inside v ha, m.set_capacity a v, memRead_set_same v ha,
    fun _ => memRead_set_other v, ?_⟩, memWrite_outside v⟩
  rw [memWrite_inside v (by rwa [Memory.set_capacity]), Memory.set_set]

theorem directAddress_le (a : Addr) : directAddress a ≤ 65535 := addr_le a

/-- An access names its cell by an address field, or it is the store of a `Write` to its sum (R37, R111). -/
theorem accesses_direct_or_writeTarget {i : Instr} {x : AccessKind × Nat} (hx : x ∈ accesses i) :
    (∃ a, x.2 = directAddress a) ∨ ∃ srcAddr offset baseAddr, i = .write srcAddr offset baseAddr ∧
      x = (.store, writeTarget offset baseAddr) := by
  cases i
  case loadConst address constant =>
    obtain rfl := List.mem_singleton.1 hx
    exact .inl ⟨address, rfl⟩
  case read dstAddr srcAddr =>
    simp only [accesses, List.mem_cons, List.not_mem_nil, or_false] at hx
    obtain rfl | rfl := hx
    · exact .inl ⟨srcAddr, rfl⟩
    · exact .inl ⟨dstAddr, rfl⟩
  case write srcAddr offset baseAddr =>
    simp only [accesses, List.mem_cons, List.not_mem_nil, or_false] at hx
    obtain rfl | rfl := hx
    · exact .inl ⟨srcAddr, rfl⟩
    · exact .inr ⟨srcAddr, offset, baseAddr, rfl, rfl⟩
  case max addrB addrC addrD =>
    simp only [accesses, List.mem_cons, List.not_mem_nil, or_false] at hx
    obtain rfl | rfl | rfl := hx
    · exact .inl ⟨addrB, rfl⟩
    · exact .inl ⟨addrD, rfl⟩
    · exact .inl ⟨addrC, rfl⟩
  all_goals cases hx

/-- The addresses an outcome reads and the addresses it writes, each in access order (R136): at most two reads, then at
most one write. -/
theorem accesses_eq_loads_then_stores (i : Instr) : ∃ loads stores : List Nat,
    accesses i = loads.map (AccessKind.load, ·) ++ stores.map (AccessKind.store, ·) ∧
      loads.length ≤ 2 ∧ stores.length ≤ 1 := by
  cases i
  case loadConst address constant => exact ⟨[], [directAddress address], rfl, by simp, by simp⟩
  case read dstAddr srcAddr =>
    exact ⟨[directAddress srcAddr], [directAddress dstAddr], rfl, by simp, by simp⟩
  case write srcAddr offset baseAddr =>
    exact ⟨[directAddress srcAddr], [writeTarget offset baseAddr], rfl, by simp, by simp⟩
  case max addrB addrC addrD =>
    exact ⟨[directAddress addrB, directAddress addrD], [directAddress addrC], rfl, by simp, by simp⟩
  all_goals exact ⟨[], [], rfl, by simp, by simp⟩

/-- Settles O11: an address field is at most 65535 and the sum of `Write` at most 65566; the reads come first. -/
theorem accessesAreBoundedAndOrdered : Obligations.AccessesAreBoundedAndOrdered := by
  unfold Obligations.AccessesAreBoundedAndOrdered
  intro i
  constructor
  · intro x hx
    rcases accesses_direct_or_writeTarget hx with ⟨a, ha⟩ | ⟨srcAddr, offset, baseAddr, hi, rfl⟩
    · have hle : x.2 ≤ 65535 := ha ▸ directAddress_le a
      exact ⟨hle.trans (by decide), fun hlt => absurd hle (Nat.not_le.2 hlt)⟩
    · exact ⟨writeTarget_le offset baseAddr, fun _ => ⟨srcAddr, offset, baseAddr, hi, rfl⟩⟩
  · obtain ⟨loads, stores, hacc, hloads, hstores⟩ := accesses_eq_loads_then_stores i
    exact ⟨_, _, hacc, by rwa [List.length_map], by rwa [List.length_map], by simp, by simp⟩

/-- Inside the array `LoadConst` completes with its cell set to the constant (R100). -/
theorem exec_loadConst_inside {address : Addr} {s : State} (constant : Constant)
    (h : directAddress address < s.mem.capacity) : exec (.loadConst address constant) s =
      .next (s.complete 0 (.done (s.mem.set (directAddress address) constant.toNat))) := by
  rw [← memWrite_inside _ h]
  rfl

/-- Inside the array `Read` completes with the destination set to the source's cell (R105). -/
theorem exec_read_inside {dstAddr srcAddr : Addr} {s : State} (hsrc : directAddress srcAddr < s.mem.capacity)
    (hdst : directAddress dstAddr < s.mem.capacity) : exec (.read dstAddr srcAddr) s =
      .next (s.complete 0 (.done (s.mem.set (directAddress dstAddr) (s.mem.cell (directAddress srcAddr))))) := by
  simp only [exec, execRead, memRead_inside hsrc, Access.andThen_done, memWrite_inside _ hdst]

/-- Settles O17: in the first order the `Read` copies the cell just set; in the second the constant goes to another cell
than the copy. -/
theorem instructionOrderDeterminesVisibility : Obligations.InstructionOrderDeterminesVisibility := by
  unfold Obligations.InstructionOrderDeterminesVisibility
  intro a dst constant s ha hdst hne
  constructor
  · refine ⟨_, _, exec_loadConst_inside constant ha, exec_read_inside ha hdst, ?_⟩
    rw [State.complete_done_mem, State.complete_done_mem, Memory.cell_set_same]
    exact memRead_set_same _ hdst
  · have hne' : directAddress dst ≠ directAddress a := BitVec.toNat_ne.1 hne
    have hcopied : memRead ((s.mem.set (directAddress dst) (s.mem.cell (directAddress a))).set (directAddress a)
        constant.toNat) (directAddress dst) = .done (s.mem.cell (directAddress a)) :=
      (memRead_set_other _ hne').trans (memRead_set_same _ hdst)
    refine ⟨_, _, exec_read_inside ha hdst, exec_loadConst_inside constant ha, hcopied, fun hfresh => ?_⟩
    have hzero : s.mem.cell (directAddress a) = 0 := by rw [hfresh, createMemory_cell]
    exact hcopied.trans (congrArg Access.done hzero)

end Sys2Proof.Machine

/-! ### The fields of a word as numbers -/

namespace Sys2Proof

/-- A field is the word divided by the power of two of its offset, masked to its width (R5, R61). -/
theorem fieldOf_eq_ofNat (w : Word) (lo n : Nat) : fieldOf w lo n = BitVec.ofNat n (w.toNat / 2 ^ lo) := by
  rw [← Nat.shiftRight_eq_div_pow]
  rfl

theorem fieldOf_toNat (w : Word) (lo n : Nat) : (fieldOf w lo n).toNat = w.toNat / 2 ^ lo % 2 ^ n := by
  rw [fieldOf_eq_ofNat, BitVec.toNat_ofNat]

theorem tagOf_toNat (w : Word) : (tagOf w).toNat = w.toNat % 32 := by
  rw [tagOf, fieldOf_toNat, Nat.pow_zero, Nat.div_one]
  rfl

/-- The tag is `t` exactly when the word leaves the remainder `t` (R52). -/
theorem tagOf_eq_iff {w : Word} {t : Tag} : tagOf w = t ↔ w.toNat % 32 = t.toNat := by
  rw [← tagOf_toNat, BitVec.toNat_inj]

/-! ### Packing as a sum -/

/-- A field put above a word that ends below its offset is added to it (R58): they share no bit. -/
theorem or_field_toNat {x : Word} {n k : Nat} (y : BitVec n) (hx : x.toNat < 2 ^ k) (hk : n + k ≤ 56) :
    (x ||| y.setWidth 56 <<< k).toNat = x.toNat + y.toNat * 2 ^ k := by
  have hshift : y.toNat <<< k < 2 ^ 56 :=
    calc y.toNat <<< k = y.toNat * 2 ^ k := Nat.shiftLeft_eq _ _
      _ < 2 ^ n * 2 ^ k := Nat.mul_lt_mul_of_pos_right y.isLt (Nat.two_pow_pos k)
      _ = 2 ^ (n + k) := (Nat.pow_add 2 n k).symm
      _ ≤ 2 ^ 56 := Nat.pow_le_pow_right (by decide) hk
  rw [BitVec.toNat_or, BitVec.toNat_shiftLeft, BitVec.toNat_setWidth_of_le (by omega), Nat.mod_eq_of_lt hshift,
    or_shiftLeft_eq_add _ _ _ hx]

/-- With the field put in, the word ends below the field's end. -/
theorem or_field_lt {x : Word} {n k : Nat} (y : BitVec n) (hx : x.toNat < 2 ^ k) (hk : n + k ≤ 56) :
    (x ||| y.setWidth 56 <<< k).toNat < 2 ^ (n + k) := by
  rw [or_field_toNat y hx hk, Nat.pow_add]
  calc x.toNat + y.toNat * 2 ^ k < 2 ^ k + y.toNat * 2 ^ k := Nat.add_lt_add_right hx _
    _ = (y.toNat + 1) * 2 ^ k := by rw [Nat.succ_mul, Nat.add_comm]
    _ ≤ 2 ^ n * 2 ^ k := Nat.mul_le_mul_right _ y.isLt

/-- A tag with a field of 16 bits above it and another field above that: the formats of two fields (R53, R54), and the
start of the formats of three. -/
theorem tag_two_fields_toNat {t : Word} {n : Nat} (y : BitVec 16) (z : BitVec n) (ht : t.toNat < 2 ^ 5)
    (hn : n + 21 ≤ 56) : (t ||| y.setWidth 56 <<< 5 ||| z.setWidth 56 <<< 21).toNat =
      t.toNat + y.toNat * 2 ^ 5 + z.toNat * 2 ^ 21 := by
  rw [or_field_toNat z (or_field_lt y ht (by decide)) hn, or_field_toNat y ht (by decide)]

theorem tag_two_fields_lt {t : Word} {n : Nat} (y : BitVec 16) (z : BitVec n) (ht : t.toNat < 2 ^ 5)
    (hn : n + 21 ≤ 56) : (t ||| y.setWidth 56 <<< 5 ||| z.setWidth 56 <<< 21).toNat < 2 ^ (n + 21) :=
  or_field_lt z (or_field_lt y ht (by decide)) hn

/-- The formats of three fields (R55, R56). -/
theorem tag_three_fields_toNat {t : Word} {n m : Nat} (y : BitVec 16) (z : BitVec n) (u : BitVec m)
    (ht : t.toNat < 2 ^ 5) (hm : m + (n + 21) ≤ 56) :
    (t ||| y.setWidth 56 <<< 5 ||| z.setWidth 56 <<< 21 ||| u.setWidth 56 <<< (n + 21)).toNat =
      t.toNat + y.toNat * 2 ^ 5 + z.toNat * 2 ^ 21 + u.toNat * 2 ^ (n + 21) := by
  have hn : n + 21 ≤ 56 := by omega
  rw [or_field_toNat u (tag_two_fields_lt y z ht hn) hm, tag_two_fields_toNat y z ht hn]

theorem tag_three_fields_lt {t : Word} {n m : Nat} (y : BitVec 16) (z : BitVec n) (u : BitVec m)
    (ht : t.toNat < 2 ^ 5) (hm : m + (n + 21) ≤ 56) :
    (t ||| y.setWidth 56 <<< 5 ||| z.setWidth 56 <<< 21 ||| u.setWidth 56 <<< (n + 21)).toNat < 2 ^ (m + (n + 21)) :=
  or_field_lt u (tag_two_fields_lt y z ht (by omega)) hm

theorem encodeWord_loadConst_toNat (address constant : Int) : (encodeWord (.loadConst address constant)).toNat =
    19 + (mask 16 address).toNat * 2 ^ 5 + (mask 20 constant).toNat * 2 ^ 21 :=
  tag_two_fields_toNat (t := 19#56) _ _ (by decide) (by decide)

theorem encodeWord_read_toNat (dstAddr srcAddr : Int) : (encodeWord (.read dstAddr srcAddr)).toNat =
    3 + (mask 16 dstAddr).toNat * 2 ^ 5 + (mask 16 srcAddr).toNat * 2 ^ 21 :=
  tag_two_fields_toNat (t := 3#56) _ _ (by decide) (by decide)

theorem encodeWord_write_toNat (srcAddr offset baseAddr : Int) : (encodeWord (.write srcAddr offset baseAddr)).toNat =
    20 + (mask 16 srcAddr).toNat * 2 ^ 5 + (mask 5 offset).toNat * 2 ^ 21 + (mask 16 baseAddr).toNat * 2 ^ 26 :=
  tag_three_fields_toNat (t := 20#56) _ _ _ (by decide) (by decide)

theorem encodeWord_max_toNat (addrB addrC addrD : Int) : (encodeWord (.max addrB addrC addrD)).toNat =
    7 + (mask 16 addrB).toNat * 2 ^ 5 + (mask 16 addrC).toNat * 2 ^ 21 + (mask 16 addrD).toNat * 2 ^ 37 :=
  tag_three_fields_toNat (t := 7#56) _ _ _ (by decide) (by decide)

/-- Settles O22: the packed word is the sum of its parts, and the mask is the floor remainder. -/
theorem packSumsTagAndFields : Obligations.PackSumsTagAndFields := by
  unfold Obligations.PackSumsTagAndFields
  simp only [encodeWord_loadConst_toNat, encodeWord_read_toNat, encodeWord_write_toNat, encodeWord_max_toNat]
  push_cast [mask_toNat_eq_emod]
  exact ⟨fun _ _ => rfl, fun _ _ => rfl, fun _ _ _ => rfl, fun _ _ _ => rfl⟩

/-- Settles O28: a word of two or of three fields ends below the end of its last field. -/
theorem packedWordsHaveZeroUnusedBits : Obligations.PackedWordsHaveZeroUnusedBits := by
  unfold Obligations.PackedWordsHaveZeroUnusedBits
  intro r
  cases r with
  | loadConst address constant => exact tag_two_fields_lt (t := 19#56) _ _ (by decide) (by decide)
  | read dstAddr srcAddr => exact tag_two_fields_lt (t := 3#56) _ _ (by decide) (by decide)
  | write srcAddr offset baseAddr => exact tag_three_fields_lt (t := 20#56) _ _ _ (by decide) (by decide)
  | max addrB addrC addrD => exact tag_three_fields_lt (t := 7#56) _ _ _ (by decide) (by decide)

end Sys2Proof

/-! ### Unpacking and packing are inverse to each other up to masking -/

namespace Sys2Proof

/-- R65 on words: unpacking cuts each masked field out of the sum again. -/
@[simp] theorem decodeWord_encodeWord (r : Record) : decodeWord (encodeWord r) = r.truncated := by
  have ht := tagOf_encodeWord r
  cases r with
  | loadConst address constant =>
    rw [decodeWord_loadConst ht, Record.truncated]
    simp only [Instr.loadConst.injEq, ← BitVec.toNat_inj, fieldOf_toNat, encodeWord_loadConst_toNat]
    omega
  | read dstAddr srcAddr =>
    rw [decodeWord_read ht, Record.truncated]
    simp only [Instr.read.injEq, ← BitVec.toNat_inj, fieldOf_toNat, encodeWord_read_toNat]
    omega
  | write srcAddr offset baseAddr =>
    rw [decodeWord_write ht, Record.truncated]
    simp only [Instr.write.injEq, ← BitVec.toNat_inj, fieldOf_toNat, encodeWord_write_toNat]
    omega
  | max addrB addrC addrD =>
    rw [decodeWord_max ht, Record.truncated]
    simp only [Instr.max.injEq, ← BitVec.toNat_inj, fieldOf_toNat, encodeWord_max_toNat]
    omega

/-- The 7 bytes of a word unpack as the word, and the bytes after them are left (R61). -/
theorem decode_bytesOfWord_append (w : Word) (rest : List Byte) :
    decode (bytesOfWord w ++ rest) = .ok (decodeWord w, rest) := by
  simp only [bytesOfWord, List.cons_append, List.nil_append, decode, wordOfBytes_fields]

theorem decode_encode_append (r : Record) (rest : List Byte) : decode (encode r ++ rest) = .ok (r.truncated, rest) := by
  rw [encode, decode_bytesOfWord_append, decodeWord_encodeWord]

/-- A record whose fields fit is not changed by masking (R65). -/
theorem record_truncated_of_wellFormed {r : Record} (h : r.wellFormed = true) : r.truncated.record = some r := by
  cases r with
  | loadConst address constant =>
    simp only [Record.wellFormed, Bool.and_eq_true] at h
    obtain ⟨ha, hc⟩ := h
    simp only [Record.truncated, Instr.record, mask_of_fits ha, mask_of_fits hc]
  | read dstAddr srcAddr =>
    simp only [Record.wellFormed, Bool.and_eq_true] at h
    obtain ⟨hd, hs⟩ := h
    simp only [Record.truncated, Instr.record, mask_of_fits hd, mask_of_fits hs]
  | write srcAddr offset baseAddr =>
    simp only [Record.wellFormed, Bool.and_eq_true] at h
    obtain ⟨⟨hs, ho⟩, hb⟩ := h
    simp only [Record.truncated, Instr.record, mask_of_fits hs, mask_of_fits ho, mask_of_fits hb]
  | max addrB addrC addrD =>
    simp only [Record.wellFormed, Bool.and_eq_true] at h
    obtain ⟨⟨hb, hc⟩, hd⟩ := h
    simp only [Record.truncated, Instr.record, mask_of_fits hb, mask_of_fits hc, mask_of_fits hd]

/-- Settles O19: the bytes make the packed word again, whose fields are the masked ones, and a field that fits is its
own mask. -/
theorem unpackOfPackIsTruncation : Obligations.UnpackOfPackIsTruncation := by
  unfold Obligations.UnpackOfPackIsTruncation
  exact fun r rest => ⟨decode_encode_append r rest, record_truncated_of_wellFormed⟩

/-- The record of an instruction stands for that instruction: its fields are already masked. -/
theorem truncated_of_record {i : Instr} {r : Record} (h : i.record = some r) : r.truncated = i := by
  cases i
  case loadConst => cases h; simp only [Record.truncated, mask_toNat]
  case read => cases h; simp only [Record.truncated, mask_toNat]
  case write => cases h; simp only [Record.truncated, mask_toNat]
  case max => cases h; simp only [Record.truncated, mask_toNat]
  all_goals cases h

/-- Exactly the instructions have a record (R63). -/
theorem record_isSome (i : Instr) : i.record.isSome = i.wellFormed := by
  cases i <;> rfl

/-- What an outcome packs to, if it packs at all, unpacks to the outcome (R63, R65). -/
theorem decodeWord_of_encodeInstr {i : Instr} {w : Word} (h : encodeInstr i = some w) : decodeWord w = i := by
  obtain ⟨r, hr, rfl⟩ := Option.map_eq_some_iff.1 h
  rw [decodeWord_encodeWord, truncated_of_record hr]

/-- Settles O20: the record of an instruction packs to a word that unpacks to it; an unknown outcome has no record. -/
theorem everyInstructionRoundTrips : Obligations.EveryInstructionRoundTrips := by
  unfold Obligations.EveryInstructionRoundTrips
  intro i
  rw [← record_isSome]
  cases hr : i.record with
  | none => simp [encodeInstr, hr]
  | some r => simp [encodeInstr, hr, truncated_of_record hr]

/-- Masking changes no packed word (R59). -/
theorem encodeInstr_truncated (r : Record) : encodeInstr r.truncated = some (encodeWord r) := by
  cases r <;> simp only [encodeInstr, Record.truncated, Instr.record, Option.map_some, encodeWord, mask_toNat]

/-- R6, D12: a multiple of the range is dropped. -/
theorem mask_add_mul_two_pow (n : Nat) (v k : Int) : mask n (v + k * 2 ^ n) = mask n v := by
  simp only [mask, Int.add_mul_emod_self_right]

/-- Settles O26: the bytes unpack to the masked record, which in turn fixes the word. -/
theorem packingTruncatesOversizedFields : Obligations.PackingTruncatesOversizedFields := by
  unfold Obligations.PackingTruncatesOversizedFields
  refine ⟨fun r r' => ⟨fun h => ?_, fun h => ?_⟩, mask_add_mul_two_pow⟩
  · have hd : decode (encode r ++ []) = decode (encode r' ++ []) := by rw [h]
    simpa only [decode_encode_append, Except.ok.injEq, Prod.mk.injEq, and_true] using hd
  · have hw : some (encodeWord r) = some (encodeWord r') := by
      rw [← encodeInstr_truncated, h, encodeInstr_truncated]
    exact congrArg bytesOfWord (Option.some.inj hw)

/-- R66 for the four known tags: packing puts back the tag and the fields, and nothing else. -/
theorem encodeInstr_decodeWord_of_known {w : Word} (h : tagOf w ∈ [3#5, 7#5, 19#5, 20#5]) :
    encodeInstr (decodeWord w) = some (BitVec.ofNat 56 (w.toNat % 2 ^ usedBits (tagOf w))) := by
  rcases decodeWord_cases w with ⟨ht, hd⟩ | ⟨ht, hd⟩ | ⟨ht, hd⟩ | ⟨ht, hd⟩ | ⟨ht, -⟩
  · have hmod : w.toNat % 32 = 19 := tagOf_eq_iff.1 ht
    rw [hd, ht, encodeInstr, Instr.record, Option.map_some, Option.some.injEq, ← BitVec.toNat_inj,
      encodeWord_loadConst_toNat, BitVec.toNat_ofNat, show usedBits 19#5 = 41 from rfl]
    simp only [↓mask_toNat, fieldOf_toNat]
    omega
  · have hmod : w.toNat % 32 = 3 := tagOf_eq_iff.1 ht
    rw [hd, ht, encodeInstr, Instr.record, Option.map_some, Option.some.injEq, ← BitVec.toNat_inj,
      encodeWord_read_toNat, BitVec.toNat_ofNat, show usedBits 3#5 = 37 from rfl]
    simp only [↓mask_toNat, fieldOf_toNat]
    omega
  · have hmod : w.toNat % 32 = 20 := tagOf_eq_iff.1 ht
    rw [hd, ht, encodeInstr, Instr.record, Option.map_some, Option.some.injEq, ← BitVec.toNat_inj,
      encodeWord_write_toNat, BitVec.toNat_ofNat, show usedBits 20#5 = 42 from rfl]
    simp only [↓mask_toNat, fieldOf_toNat]
    omega
  · have hmod : w.toNat % 32 = 7 := tagOf_eq_iff.1 ht
    rw [hd, ht, encodeInstr, Instr.record, Option.map_some, Option.some.injEq, ← BitVec.toNat_inj,
      encodeWord_max_toNat, BitVec.toNat_ofNat, show usedBits 7#5 = 53 from rfl]
    simp only [↓mask_toNat, fieldOf_toNat]
    omega
  · exact absurd h ht

/-- The unknown outcomes are those that cannot be packed (R63, R66). -/
theorem encodeInstr_eq_none {i : Instr} : encodeInstr i = none ↔ i.wellFormed = false := by
  rw [encodeInstr, Option.map_eq_none_iff, ← record_isSome, Option.isSome_eq_false_iff, Option.isNone_iff_eq_none]

/-- Settles O23: a known tag by the sums of the fields, an unknown one by having no record. -/
theorem packOfUnpackClearsUnusedBits : Obligations.PackOfUnpackClearsUnusedBits := by
  unfold Obligations.PackOfUnpackClearsUnusedBits
  intro w
  split
  next h => exact encodeInstr_decodeWord_of_known h
  next h => exact encodeInstr_eq_none.2 (wellFormed_decodeWord_eq_false.2 h)

theorem usedBits_of_unknown : ∀ tag : Tag, tag ∉ [3#5, 7#5, 19#5, 20#5] → usedBits tag = 5 := by decide

/-- A word with some bits cleared is a word. -/
theorem toNat_mod_lt (w : Word) (n : Nat) : w.toNat % n < 2 ^ 56 := (Nat.mod_le _ _).trans_lt w.isLt

/-- Two words of a known tag unpack alike when they pack back alike, since packing loses nothing of an outcome; and what
they pack back to is the bits that count. -/
theorem decodeWord_eq_iff_of_known {w w' : Word} (h : tagOf w ∈ [3#5, 7#5, 19#5, 20#5]) (ht : tagOf w = tagOf w') :
    decodeWord w = decodeWord w' ↔ w.toNat % 2 ^ usedBits (tagOf w) = w'.toNat % 2 ^ usedBits (tagOf w') := by
  have hw := encodeInstr_decodeWord_of_known h
  have hw' := encodeInstr_decodeWord_of_known (ht ▸ h)
  constructor
  · intro hd
    have hp := Option.some.inj (hw.symm.trans (hd ▸ hw'))
    rwa [← BitVec.toNat_inj, BitVec.toNat_ofNat, BitVec.toNat_ofNat, Nat.mod_eq_of_lt (toNat_mod_lt w _),
      Nat.mod_eq_of_lt (toNat_mod_lt w' _)] at hp
  · intro hmod
    rw [← hmod] at hw'
    exact (decodeWord_of_encodeInstr hw).symm.trans (decodeWord_of_encodeInstr hw')

/-- Settles O24: the outcome carries the tag; a known tag leaves the fields to compare, an unknown one nothing. -/
theorem onlyUsedBitsMatter : Obligations.OnlyUsedBitsMatter := by
  unfold Obligations.OnlyUsedBitsMatter
  intro w w'
  have htag : decodeWord w = decodeWord w' → tagOf w = tagOf w' := fun h => by
    rw [← tag_decodeWord, h, tag_decodeWord]
  rw [← and_iff_right_of_imp htag]
  refine and_congr_right fun ht => ?_
  by_cases h : tagOf w ∈ [3#5, 7#5, 19#5, 20#5]
  · exact decodeWord_eq_iff_of_known h ht
  · have hd : decodeWord w = decodeWord w' := by rw [decodeWord_unknown h, decodeWord_unknown (ht ▸ h), ht]
    have hmod : w.toNat % 2 ^ 5 = w'.toNat % 2 ^ 5 := (tagOf_toNat w).symm.trans (ht ▸ tagOf_toNat w')
    rw [← ht, usedBits_of_unknown _ h]
    exact iff_of_true hd hmod

/-- Settles O25: by the tag that each outcome carries. -/
theorem tagSelectsOutcome : Obligations.TagSelectsOutcome := by
  unfold Obligations.TagSelectsOutcome
  intro w
  refine ⟨?_, tag_decodeWord w⟩
  rw [← Bool.not_eq_false, wellFormed_decodeWord_eq_false, not_not]

/-- The tag is known exactly when the remainder is one of the four (R57). -/
theorem tagOf_mem_known_iff {w : Word} : tagOf w ∈ [3#5, 7#5, 19#5, 20#5] ↔ w.toNat % 32 ∈ [3, 7, 19, 20] := by
  simp [tagOf_eq_iff]

/-- Settles O21: the 7 bytes make the number, and each field is the number divided and masked. -/
theorem unpackExtractsFields : Obligations.UnpackExtractsFields := by
  unfold Obligations.UnpackExtractsFields
  intro b0 b1 b2 b3 b4 b5 b6 w
  have hw : (wordOfBytes b0 b1 b2 b3 b4 b5 b6).toNat = w := wordOfBytes_toNat b0 b1 b2 b3 b4 b5 b6
  refine ⟨_, rfl, ?_⟩
  rw [← hw]
  generalize wordOfBytes b0 b1 b2 b3 b4 b5 b6 = word
  refine ⟨fun h => ?_, fun h => ?_, fun h => ?_, fun h => ?_, fun h => ⟨?_, ?_⟩⟩
  · simp only [decodeWord_loadConst (tagOf_eq_iff.2 h), fieldOf_eq_ofNat]
  · simp only [decodeWord_read (tagOf_eq_iff.2 h), fieldOf_eq_ofNat]
  · simp only [decodeWord_write (tagOf_eq_iff.2 h), fieldOf_eq_ofNat]
  · simp only [decodeWord_max (tagOf_eq_iff.2 h), fieldOf_eq_ofNat]
  · exact wellFormed_decodeWord_eq_false.2 fun hknown => h (tagOf_mem_known_iff.1 hknown)
  · rw [tag_decodeWord, tagOf, fieldOf_eq_ofNat, Nat.pow_zero, Nat.div_one]

/-- The word under the mask `0x1F` is its tag (R57). -/
theorem and_tagMask (w : Word) : w &&& 0x1F#56 = (tagOf w).setWidth 56 := by
  have hand : (w &&& 0x1F#56).toNat = w.toNat % 2 ^ 5 := Nat.and_two_pow_sub_one_eq_mod w.toNat 5
  rw [← BitVec.toNat_inj, BitVec.toNat_setWidth_of_le (by decide), tagOf_toNat, hand]
  rfl

theorem and_tagMask_eq_iff {w : Word} (t : Tag) : w &&& 0x1F#56 = t.setWidth 56 ↔ tagOf w = t := by
  rw [and_tagMask, ← BitVec.toNat_inj, BitVec.toNat_setWidth_of_le (by decide),
    BitVec.toNat_setWidth_of_le (by decide), BitVec.toNat_inj]

/-- Settles O59: the mask gives the tag, and an outcome carries the tag of its word. -/
theorem opcodeTagsAreFixed : Obligations.OpcodeTagsAreFixed := by
  unfold Obligations.OpcodeTagsAreFixed
  intro w
  have htag {i : Instr} (h : decodeWord w = i) : tagOf w = i.tag := h ▸ (tag_decodeWord w).symm
  refine ⟨?_, ?_, ?_, ?_, ?_, fun _ => ?_⟩
  · refine (and_tagMask_eq_iff 3#5).trans ⟨fun h => ⟨_, _, decodeWord_read h⟩, ?_⟩
    rintro ⟨dstAddr, srcAddr, h⟩
    exact htag h
  · refine (and_tagMask_eq_iff 7#5).trans ⟨fun h => ⟨_, _, _, decodeWord_max h⟩, ?_⟩
    rintro ⟨addrB, addrC, addrD, h⟩
    exact htag h
  · refine (and_tagMask_eq_iff 19#5).trans ⟨fun h => ⟨_, _, decodeWord_loadConst h⟩, ?_⟩
    rintro ⟨address, constant, h⟩
    exact htag h
  · refine (and_tagMask_eq_iff 20#5).trans ⟨fun h => ⟨_, _, _, decodeWord_write h⟩, ?_⟩
    rintro ⟨srcAddr, offset, baseAddr, h⟩
    exact htag h
  · have hmem : w &&& 0x1F#56 ∈ [3#5, 7#5, 19#5, 20#5].map (BitVec.setWidth 56) ↔
        tagOf w ∈ [3#5, 7#5, 19#5, 20#5] := by
      simp only [List.mem_map, eq_comm (b := w &&& 0x1F#56), and_tagMask_eq_iff, exists_eq_right']
    exact wellFormed_decodeWord_eq_false.trans (not_congr hmem.symm)
  · rw [tag_decodeWord, and_tagMask]

/-- Settles O30: four packings and seven unpackings of fixed words, each computed. -/
theorem workedWordsPackAndUnpack : Obligations.WorkedWordsPackAndUnpack := by
  unfold Obligations.WorkedWordsPackAndUnpack
  decide

end Sys2Proof

/-! ### Bytes, words and programs -/

namespace Sys2Proof.Machine

/-- The bytes of a word make the word, whatever follows them (R51, R67). -/
theorem programWords_bytesOfWord_append (w : Word) (rest : List Byte) :
    programWords (bytesOfWord w ++ rest) = w :: programWords rest := by
  simp only [bytesOfWord, List.cons_append, List.nil_append, programWords, wordOfBytes_fields]

theorem fetch_bytesOfWord (w : Word) : fetch (bytesOfWord w) 0 = some w :=
  (fetch_of_drop rfl).trans (congrArg some (wordOfBytes_fields w))

/-- The bytes of the number that 7 bytes make are those bytes (R51). -/
theorem bytesOfWord_wordOfBytes (b0 b1 b2 b3 b4 b5 b6 : Byte) :
    bytesOfWord (wordOfBytes b0 b1 b2 b3 b4 b5 b6) = [b0, b1, b2, b3, b4, b5, b6] := by
  simp only [bytesOfWord, List.cons.injEq, ← BitVec.toNat_inj, fieldOf_toNat, wordOfBytes_toNat, and_true]
  omega

/-- Settles O29: by the bytes of a word and the word of 7 bytes. -/
theorem serialisationIsInverse : Obligations.SerialisationIsInverse := by
  unfold Obligations.SerialisationIsInverse
  exact ⟨fetch_bytesOfWord, bytesOfWord_wordOfBytes⟩

/-- Exactly a fragment is rejected, with its length (R67). -/
theorem decode_eq_error_iff : ∀ (bytes : List Byte) (n : Nat),
    decode bytes = .error (.fragment n) ↔ bytes.length < 7 ∧ n = bytes.length
  | b0 :: b1 :: b2 :: b3 :: b4 :: b5 :: b6 :: rest, n => by
    simp [decode]
  | [], n | [_], n | [_, _], n | [_, _, _], n | [_, _, _, _], n | [_, _, _, _, _], n | [_, _, _, _, _, _], n => by
    simp [decode, eq_comm]

/-- A fragment has no words (R67). -/
theorem programWords_of_fragment {bytes : List Byte} (h : bytes.length < 7) : programWords bytes = [] := by
  rw [← List.length_eq_zero_iff, programWords_length, Nat.div_eq_of_lt h]

/-- Nothing is fetched only where a fragment is left (R80). -/
theorem length_drop_of_fetch_eq_none {prog : List Byte} {p : Nat} (h : fetch prog p = none) :
    (prog.drop p).length < 7 := by
  rw [List.length_drop, ← Nat.not_le, ← fetch_isSome, h]
  exact Bool.false_ne_true

/-- What is fetched at an offset is the first word of the bytes from there on (R81). -/
theorem head?_programWords_drop (prog : List Byte) (p : Nat) : (programWords (prog.drop p)).head? = fetch prog p := by
  cases hf : fetch prog p with
  | some w => rw [programWords_drop_of_fetch hf, List.head?_cons]
  | none => rw [programWords_of_fragment (length_drop_of_fetch_eq_none hf), List.head?_nil]

/-- The other words are those of the bytes from the next word on. -/
theorem tail_programWords_drop (prog : List Byte) (p : Nat) :
    (programWords (prog.drop p)).tail = programWords (prog.drop (p + 7)) := by
  cases hf : fetch prog p with
  | some w => rw [programWords_drop_of_fetch hf, List.tail_cons]
  | none =>
    have hlen := length_drop_of_fetch_eq_none hf
    rw [← List.drop_drop, List.drop_of_length_le hlen.le, programWords_of_fragment hlen]
    rfl

/-- The words after the first `j` are those of the bytes from `7j` on (R67). -/
theorem drop_programWords (prog : List Byte) (j : Nat) :
    (programWords prog).drop j = programWords (prog.drop (7 * j)) := by
  induction j with
  | zero => rfl
  | succ j ih => rw [← List.tail_drop, ih, tail_programWords_drop, Nat.mul_succ]

/-- Settles O31: word `j` is the first of the words after `j` others. -/
theorem programIsItsWords : Obligations.ProgramIsItsWords := by
  unfold Obligations.ProgramIsItsWords
  refine ⟨decode_eq_error_iff, programWords_length, fun prog j => ?_⟩
  rw [← head?_programWords_drop, ← drop_programWords, List.head?_drop]

theorem length_encode (r : Record) : (encode r).length = 7 := rfl

/-- Settles O32: each record adds the 7 bytes of its word in front, and the word unpacks to the masked record. -/
theorem assembledProgramUnpacksToItsRecords : Obligations.AssembledProgramUnpacksToItsRecords := by
  unfold Obligations.AssembledProgramUnpacksToItsRecords
  intro rs
  induction rs with
  | nil => exact ⟨rfl, rfl⟩
  | cons r rs ih =>
    obtain ⟨hlen, hwords⟩ := ih
    constructor
    · rw [assemble, List.length_append, hlen, length_encode, List.length_cons, Nat.mul_succ, Nat.add_comm]
    · rw [assemble, encode, programWords_bytesOfWord_append, List.map_cons, hwords, decodeWord_encodeWord,
        List.map_cons]

end Sys2Proof.Machine

/-! ### Fetching a word, and the step that runs it -/

namespace Sys2Proof.Machine

theorem drop_eq_getD_cons {prog : List Byte} {p : Nat} (h : p < prog.length) :
    prog.drop p = prog.getD p 0#8 :: prog.drop (p + 1) := by
  rw [List.drop_eq_getElem_cons h, List.getD_eq_getElem _ _ h]

/-- Where 7 bytes stand, fetching puts them together (R81). -/
theorem fetch_eq_wordOfBytes {prog : List Byte} {p : Nat} (h : p + 7 ≤ prog.length) :
    fetch prog p = some (wordOfBytes (prog.getD p 0#8) (prog.getD (p + 1) 0#8) (prog.getD (p + 2) 0#8)
      (prog.getD (p + 3) 0#8) (prog.getD (p + 4) 0#8) (prog.getD (p + 5) 0#8) (prog.getD (p + 6) 0#8)) := by
  apply fetch_of_drop (rest := prog.drop (p + 7))
  rw [drop_eq_getD_cons (p := p) (by omega), drop_eq_getD_cons (p := p + 1) (by omega),
    drop_eq_getD_cons (p := p + 2) (by omega), drop_eq_getD_cons (p := p + 3) (by omega),
    drop_eq_getD_cons (p := p + 4) (by omega), drop_eq_getD_cons (p := p + 5) (by omega),
    drop_eq_getD_cons (p := p + 6) (by omega)]

/-- Settles O33: the fetched word is made of the 7 bytes, and the number they make is the sum. -/
theorem fetchIsLittleEndian : Obligations.FetchIsLittleEndian := by
  unfold Obligations.FetchIsLittleEndian
  exact fun prog p h => ⟨_, fetch_eq_wordOfBytes h, wordOfBytes_toNat _ _ _ _ _ _ _⟩

/-- What the bytes from an offset on decode to is what the word fetched there unpacks to (R81, R82). -/
theorem fetch_of_decode_drop {prog rest : List Byte} {p : Nat} {i : Instr} (h : decode (prog.drop p) = .ok (i, rest)) :
    ∃ w, fetch prog p = some w ∧ decodeWord w = i := by
  unfold decode at h
  split at h
  next hd => exact ⟨_, fetch_of_drop hd, (Prod.mk.inj (Except.ok.inj h)).1⟩
  next => cases h

/-- Settles O34: the word fetched at `ip` unpacks to the outcome. -/
theorem stepRunsTheDecodedInstruction : Obligations.StepRunsTheDecodedInstruction := by
  unfold Obligations.StepRunsTheDecodedInstruction
  intro s i rest hf h
  obtain ⟨w, hw, rfl⟩ := fetch_of_decode_drop h
  exact step_of_fetch hf hw

/-- From the offset where they were placed on, the program begins with the placed bytes (log entry 8). -/
theorem drop_placeBytes (prog : List Byte) (p : Nat) (bytes : List Byte) :
    (placeBytes prog p bytes).drop p = bytes ++ prog.drop (p + bytes.length) := by
  have hlen : (prog.take p ++ List.replicate (p - prog.length) 0#8).length = p := by
    rw [List.length_append, List.length_take, List.length_replicate]
    omega
  rw [placeBytes, List.append_assoc _ bytes, List.drop_left' hlen]

/-- A table word decodes to what the word of its low bits unpacks to. -/
theorem decodeTableWord_eq (nbits w : Nat) :
    decodeTableWord nbits w = some (decodeWord (BitVec.ofNat 56 (w % 2 ^ nbits))) := by
  have hd := decode_bytesOfWord_append (BitVec.ofNat 56 (w % 2 ^ nbits)) []
  rw [List.append_nil] at hd
  rw [decodeTableWord, tableBytes, hd]

/-- Settles O35: the bytes at `ip` are the placed ones, and decode to the table word's outcome. -/
theorem stepRunsThePlacedWord : Obligations.StepRunsThePlacedWord := by
  unfold Obligations.StepRunsThePlacedWord
  intro s nbits w
  refine ⟨_, decodeTableWord_eq nbits w, ?_⟩
  apply stepRunsTheDecodedInstruction _ _ (s.prog.drop (s.ip + 7)) (s.withFetchWord_fault nbits w)
  rw [State.withFetchWord_prog, State.withFetchWord_ip, drop_placeBytes, tableBytes, decode_bytesOfWord_append]
  rfl

end Sys2Proof.Machine

/-! ### When a step is enabled, and what it counts -/

namespace Sys2Proof.Machine

/-- R80: no fault is recorded and at least 7 bytes remain. -/
theorem State.enabled_iff {s : State} : s.enabled = true ↔ s.fault = none ∧ 7 ≤ s.prog.length - s.ip := by
  simp [State.enabled]

/-- There is a next state exactly when a step is enabled (R80). -/
theorem step_exists_next_iff {s : State} : (∃ t, step s = .next t) ↔ s.enabled = true := by
  rw [State.enabled_iff, ← fetch_isSome, Option.isSome_iff_exists]
  constructor
  · rintro ⟨t, h⟩
    obtain ⟨hf, w, hw, -⟩ := step_next h
    exact ⟨hf, w, hw⟩
  · rintro ⟨hf, w, hw⟩
    exact step_exists_next hf hw

/-- A halted run takes no step (R80, R157; log entry 6). -/
theorem step_of_fault {s : State} {r : FaultRecord} (h : s.fault = some r) : step s = .fault (.runHalted r) := by
  simp only [step, h]

/-- At the end of the stream there is no step (R84; log entry 6). -/
theorem step_of_fetch_eq_none {s : State} (hf : s.fault = none) (hw : fetch s.prog s.ip = none) :
    step s = .refused .runOver := by
  simp only [step, hf, hw]

/-- Settles O36: a word is fetched exactly where 7 bytes remain, and every fetched word has a next state. -/
theorem stepIsEnabledExactlyInARun : Obligations.StepIsEnabledExactlyInARun := by
  unfold Obligations.StepIsEnabledExactlyInARun
  intro s
  refine ⟨step_exists_next_iff.trans State.enabled_iff, fun r => step_of_fault, fun hf hlt => ?_⟩
  have hw : fetch s.prog s.ip = none := by
    rw [← Option.not_isSome_iff_eq_none, fetch_isSome]
    exact Nat.not_le.2 hlt
  exact step_of_fetch_eq_none hf hw

/-- Settles O37: of the three things a step can do two advance and leave the fault record empty; the third takes the
fault of an access outside the array, at an address that can be named. -/
theorem stepAdvancesOrFaults : Obligations.StepAdvancesOrFaults := by
  unfold Obligations.StepAdvancesOrFaults
  intro s t h
  obtain ⟨hf, w, -, ⟨k, a, v, -, -, rfl⟩ | ⟨k, a, hr, rfl⟩ | ⟨-, rfl⟩⟩ := step_next_cases h
  · exact .inl ⟨hf, s.complete_done_ip k _⟩
  · obtain ⟨hc, ha⟩ := storeOf_raised_bounds hr
    exact .inr ⟨a, hc, ha, rfl⟩
  · exact .inl ⟨hf, s.recordUnknown_ip _⟩

/-- A step that records no fault advances (R83). -/
theorem step_next_ip {s t : State} (h : step s = .next t) (ht : t.fault = none) : t.ip = s.ip + 7 := by
  rcases stepAdvancesOrFaults s t h with ⟨-, hip⟩ | ⟨a, -, -, rfl⟩
  · exact hip
  · cases ht

/-- Only an instruction with the tag of `Max` counts a `Max` operation (R87). -/
theorem storeOf_maxOps_eq {m : Memory} {i : Instr} {k : Nat} {r : Access Memory} (h : storeOf m i = some (k, r)) :
    k = if i.tag = 7#5 then 1 else 0 := by
  cases i
  case loadConst | read | write | max => obtain ⟨rfl, -⟩ := Prod.mk.inj (Option.some.inj h); rfl
  all_goals cases h

/-- A word that makes accesses has a known tag (R57, R85). -/
theorem tagOf_known_of_storeOf {m : Memory} {w : Word} {x : Nat × Access Memory}
    (h : storeOf m (decodeWord w) = some x) : tagOf w ∈ [3#5, 7#5, 19#5, 20#5] := by
  by_contra hu
  rw [storeOf_decodeWord_eq_none.2 hu] at h
  cases h

/-- Settles O38: a completed instruction is counted, and as a `Max` when that is its tag; a fault counts nothing; a word
with an unknown tag is counted as unknown, and its tag is not that of `Max`. -/
theorem stepCountsItsWord : Obligations.StepCountsItsWord := by
  unfold Obligations.StepCountsItsWord
  intro s t w h hw
  obtain ⟨hf, w', hw', hcases⟩ := step_next_cases h
  obtain rfl : w' = w := Option.some.inj (hw'.symm.trans hw)
  rcases hcases with ⟨k, a, v, hr, -, rfl⟩ | ⟨k, a, -, rfl⟩ | ⟨hr, rfl⟩
  · have hk : k = if tagOf w' = 7#5 then 1 else 0 := tag_decodeWord w' ▸ storeOf_maxOps_eq hr
    simp only [tagOf_known_of_storeOf hr, if_true]
    exact ⟨fun _ => ⟨rfl, congrArg (s.nMax + ·) hk, rfl⟩, by simp [hf]⟩
  · exact ⟨by simp, fun _ => ⟨rfl, rfl, rfl⟩⟩
  · have hu := storeOf_decodeWord_eq_none.1 hr
    have hmax : tagOf w' ≠ 7#5 := fun h7 => hu (by simp [h7])
    simp only [hu, hmax, if_false]
    exact ⟨fun _ => ⟨rfl, rfl, rfl⟩, by simp [hf]⟩

/-- An outcome that is no instruction is recorded with its tag (R85). -/
theorem exec_of_wellFormed_eq_false {i : Instr} (h : i.wellFormed = false) (s : State) :
    exec i s = .next (s.recordUnknown i.tag) := by
  rcases exec_cases i s with ⟨k, r, -, hi, -⟩ | ⟨-, -, hx⟩
  · rw [h] at hi
    cases hi
  · exact hx

/-- Settles O18: each of the 28 outcomes is no instruction and carries its tag, and recording is the update written
out. -/
theorem unknownTagIsRecordedNoOp : Obligations.UnknownTagIsRecordedNoOp := by
  unfold Obligations.UnknownTagIsRecordedNoOp
  intro s p hp
  obtain ⟨hi, ht⟩ : p.1.wellFormed = false ∧ p.1.tag = p.2 := by
    revert p
    decide
  rw [exec_of_wellFormed_eq_false hi, ht]
  rfl

end Sys2Proof.Machine

/-! ### Whole runs: the end, the count of words, the order of execution -/

namespace Sys2Proof.Machine

/-- Where no step is enabled a run stays where it is. -/
theorem runSteps_of_not_enabled {s : State} (h : s.enabled = false) (fuel : Nat) : runSteps fuel s = s := by
  cases fuel with
  | zero => rfl
  | succ fuel =>
    rw [runSteps]
    split
    next t ht => exact absurd (step_exists_next_iff.1 ⟨t, ht⟩) (by simp [h])
    next => rfl
    next => rfl

theorem State.enabled_of_fault {s : State} {r : FaultRecord} (h : s.fault = some r) : s.enabled = false := by
  simp [State.enabled, h]

/-- What every step keeps, a run of any length keeps. -/
theorem runSteps_induction {P : State → Prop} (hstep : ∀ s t, P s → step s = .next t → P t) (fuel : Nat) {s : State}
    (hs : P s) : P (runSteps fuel s) := by
  induction fuel generalizing s with
  | zero => exact hs
  | succ fuel ih =>
    rw [runSteps]
    split
    next t ht => exact ih (hstep s t hs ht)
    next => exact hs
    next => exact hs

/-- As many steps as whole words remain bring a run to its end: each step uses up a word, or halts the run (R92). -/
theorem runSteps_not_enabled {s : State} {fuel : Nat} (h : (s.prog.length - s.ip) / 7 ≤ fuel) :
    (runSteps fuel s).enabled = false := by
  induction fuel generalizing s with
  | zero =>
    rw [runSteps, ← Bool.not_eq_true, State.enabled_iff]
    omega
  | succ fuel ih =>
    cases hs : s.enabled with
    | false => rwa [runSteps_of_not_enabled hs]
    | true =>
      obtain ⟨t, ht⟩ := step_exists_next_iff.2 hs
      rw [runSteps_of_next ht]
      cases hf : t.fault with
      | none =>
        obtain ⟨hprog, -, -⟩ := stepKeepsParameters s t ht
        exact ih (by rw [hprog, step_next_ip ht hf]; omega)
      | some r => rw [runSteps_of_fault hf, State.enabled_of_fault hf]

theorem execute_not_enabled (input : RunInput) : (execute input).enabled = false :=
  runSteps_not_enabled (by simp)

/-- Settles O46: the fuel of a whole run is the number of the program's words, and where no step is enabled the result
can be read. -/
theorem everyRunEnds : Obligations.EveryRunEnds := by
  unfold Obligations.EveryRunEnds
  intro input
  have hend := execute_not_enabled input
  exact ⟨hend, by simp [State.result, hend]⟩

theorem execute_prog (input : RunInput) : (execute input).prog = input.prog :=
  runSteps_induction (P := fun s => s.prog = input.prog)
    (fun s t hs h => (stepKeepsParameters s t h).1.trans hs) _ rfl

/-- `ip` is inside the program, 7 bytes on for each word counted (R12, R17): the part of the invariant that holds of every
input, well formed or not. -/
def State.EachWordCounted (s : State) : Prop :=
  s.ip = 7 * (s.nExec + s.nUnknown) ∧ s.ip ≤ s.prog.length

theorem step_keeps_eachWordCounted {s t : State} (hs : s.EachWordCounted) (h : step s = .next t) :
    t.EachWordCounted := by
  obtain ⟨hip, -⟩ := hs
  obtain ⟨-, w, hw, ⟨k, a, v, -, -, rfl⟩ | ⟨k, a, -, rfl⟩ | ⟨-, rfl⟩⟩ := step_next_cases h
  · exact ⟨by simp only [State.complete_done_ip, State.complete_done_nExec, State.complete_done_nUnknown]; omega,
      fetch_inside hw⟩
  · exact ⟨hip, Nat.le_of_add_right_le (fetch_inside hw)⟩
  · exact ⟨by simp only [State.recordUnknown_ip, State.recordUnknown_nExec, State.recordUnknown_nUnknown]; omega,
      fetch_inside hw⟩

theorem execute_eachWordCounted (input : RunInput) : (execute input).EachWordCounted :=
  runSteps_induction (fun _ _ => step_keeps_eachWordCounted) _ ⟨rfl, Nat.zero_le _⟩

/-- Settles O47: every word before `ip` is counted, and a run that ends without a fault ends where fewer than 7 bytes
remain. -/
theorem normalEndCountsEveryWord : Obligations.NormalEndCountsEveryWord := by
  unfold Obligations.NormalEndCountsEveryWord
  intro input hsafe
  obtain ⟨hip, hinside⟩ := execute_eachWordCounted input
  have hrest : ¬ 7 ≤ (execute input).prog.length - (execute input).ip := fun hle =>
    Bool.false_ne_true ((execute_not_enabled input).symm.trans (State.enabled_iff.2 ⟨hsafe, hle⟩))
  rw [execute_prog] at hinside hrest
  omega

theorem execAll_of_fault {s : State} {r : FaultRecord} (h : s.fault = some r) (is : List Instr) : execAll is s = s := by
  cases is <;> simp [execAll, h]

theorem execAll_cons_of_next {i : Instr} {s t : State} (hf : s.fault = none) (h : exec i s = .next t)
    (is : List Instr) : execAll (i :: is) s = execAll is t := by
  simp only [execAll, hf, h]

/-- A run from any state that executes the words left, `ws`, executes what they unpack to (R80, R89). In a halted state
`ws` may be any words: none is executed. -/
theorem runSteps_eq_execAll (ws : List Word) {s : State}
    (hws : s.fault = none → programWords (s.prog.drop s.ip) = ws) :
    runSteps ws.length s = execAll (ws.map decodeWord) s := by
  induction ws generalizing s with
  | nil => rfl
  | cons w ws ih =>
    cases hf : s.fault with
    | some r => rw [runSteps_of_fault hf, execAll_of_fault hf]
    | none =>
      obtain ⟨hw, hrest⟩ := fetch_of_programWords_drop (hws hf)
      obtain ⟨t, ht⟩ := step_exists_next hf hw
      have hexec : exec (decodeWord w) s = .next t := (step_of_fetch hf hw).symm.trans ht
      rw [List.length_cons, runSteps_of_next ht, List.map_cons, execAll_cons_of_next hf hexec]
      refine ih fun htf => ?_
      obtain ⟨hprog, -, -⟩ := stepKeepsParameters s t ht
      rw [hprog, step_next_ip ht htf, hrest]

/-- Settles O49: at the start the words left are all the words of the program. -/
theorem runIsItsInstructionsInOrder : Obligations.RunIsItsInstructionsInOrder := by
  unfold Obligations.RunIsItsInstructionsInOrder
  intro input
  rw [execute, ← programWords_length]
  exact runSteps_eq_execAll _ fun _ => rfl

end Sys2Proof.Machine

/-! ### Execution does not look at the program store -/

namespace Sys2Proof.Machine

/-- The state with another program in its store. -/
def State.withProg (s : State) (prog : List Byte) : State := { s with prog := prog }

@[simp] theorem State.withProg_mem (s : State) (prog : List Byte) : (s.withProg prog).mem = s.mem := rfl
@[simp] theorem State.withProg_fault (s : State) (prog : List Byte) : (s.withProg prog).fault = s.fault := rfl

theorem complete_withProg (s : State) (prog : List Byte) (k : Nat) (r : Access Memory) :
    (s.withProg prog).complete k r = (s.complete k r).withProg prog := by
  cases r with
  | done m => rfl
  | raised a => rfl

/-- An outcome with accesses completes them. -/
theorem exec_of_storeOf_eq_some {i : Instr} {s : State} {k : Nat} {r : Access Memory}
    (h : storeOf s.mem i = some (k, r)) : exec i s = .next (s.complete k r) := by
  rcases exec_cases i s with ⟨k', r', h', -, hx⟩ | ⟨h', -, -⟩
  · obtain ⟨rfl, rfl⟩ := Prod.mk.inj (Option.some.inj (h.symm.trans h'))
    exact hx
  · cases h.symm.trans h'

/-- Every outcome is executed alike whatever program stands in the store (R82): fetching alone reads it. -/
theorem exec_withProg (i : Instr) (s : State) (prog : List Byte) :
    ∃ t, exec i s = .next t ∧ exec i (s.withProg prog) = .next (t.withProg prog) := by
  rcases exec_cases i s with ⟨k, r, hr, -, hx⟩ | ⟨-, hi, hx⟩
  · have hr' : storeOf (s.withProg prog).mem i = some (k, r) := by rwa [State.withProg_mem]
    exact ⟨_, hx, by rw [exec_of_storeOf_eq_some hr', complete_withProg]⟩
  · exact ⟨_, hx, exec_of_wellFormed_eq_false hi _⟩

theorem execAll_withProg (is : List Instr) (s : State) (prog : List Byte) :
    execAll is (s.withProg prog) = (execAll is s).withProg prog := by
  induction is generalizing s with
  | nil => rfl
  | cons i is ih =>
    cases hf : s.fault with
    | some r => rw [execAll_of_fault ((s.withProg_fault prog).trans hf), execAll_of_fault hf]
    | none =>
      obtain ⟨t, ht, ht'⟩ := exec_withProg i s prog
      rw [execAll_cons_of_next ((s.withProg_fault prog).trans hf) ht', execAll_cons_of_next hf ht, ih]

/-- The result of a run that is over says nothing of its program (R93, R134). -/
theorem result_withProg {s : State} {prog : List Byte} (hs : s.enabled = false)
    (hs' : (s.withProg prog).enabled = false) : s.result = (s.withProg prog).result := by
  rw [State.result, State.result, hs, hs']
  rfl

/-- Settles O51: both runs execute the same outcomes, from start states that differ in the program alone. -/
theorem unusedBitsAndFragmentsAreInvisible : Obligations.UnusedBitsAndFragmentsAreInvisible := by
  unfold Obligations.UnusedBitsAndFragmentsAreInvisible
  intro mem cellBits prog prog' hwords
  have hrun : execute { prog := prog', mem := mem, cellBits := cellBits } =
      (execute { prog := prog, mem := mem, cellBits := cellBits }).withProg prog' := by
    rw [runIsItsInstructionsInOrder, runIsItsInstructionsInOrder, hwords, ← execAll_withProg]
    rfl
  rw [hrun]
  exact result_withProg (execute_not_enabled _) (hrun ▸ execute_not_enabled _)

end Sys2Proof.Machine

/-! ### What the four instructions store, and where they fault -/

namespace Sys2Proof.Machine

/-- Completing an instruction whose write set one cell inside the array stores that cell and leaves the rest (R36, R83,
R87). -/
theorem storedCell_complete_set {s : State} {a : Nat} (v k : Nat) (h : a < s.mem.capacity) :
    StoredCell s (s.complete k (.done (s.mem.set a v))) a v k where
  stored := memRead_set_same v h
  others := fun _ => memRead_set_other v
  capacity := rfl
  ip := rfl
  nExec := rfl
  nMax := rfl
  nUnknown := rfl
  events := rfl
  fault := rfl
  prog := rfl
  cellBits := rfl

/-- Settles O4: inside the array the one write of `LoadConst` sets its cell to the constant. -/
theorem loadConstStoresConstant : Obligations.LoadConstStoresConstant := by
  unfold Obligations.LoadConstStoresConstant
  intro address constant s h
  exact ⟨rfl, _, exec_loadConst_inside constant h, storedCell_complete_set constant.toNat 0 h⟩

/-- The chain of an instruction's accesses raises at the first one outside the array (R156, decision D6). -/
theorem storeOf_raised_iff {m : Memory} {i : Instr} {a : Nat} :
    (∃ k, storeOf m i = some (k, .raised a)) ↔ firstOutOfBounds m.capacity i = some a := by
  cases i
  case loadConst address constant =>
    simp [storeOf, memWrite_eq_raised, firstOutOfBounds, accesses, directAddress, @eq_comm _ a]
  case read | write | max =>
    simp [storeOf, Access.andThen_eq_raised, memRead_eq_raised, memRead_eq_done, memWrite_eq_raised,
      firstOutOfBounds, accesses, directAddress, List.find?_cons_eq_some, @eq_comm _ a]
  all_goals simp [storeOf, firstOutOfBounds, accesses]

/-- An access outside the array is the first one there when all before it are inside (R156). -/
theorem firstOutOfBounds_eq_some {n a : Nat} {i : Instr} {before after : List (AccessKind × Nat)}
    {kind : AccessKind} (hacc : accesses i = before ++ (kind, a) :: after) (hbefore : ∀ x ∈ before, x.2 < n)
    (ha : n ≤ a) : firstOutOfBounds n i = some a := by
  have hnone : (before.map Prod.snd).find? (fun a => decide (n ≤ a)) = none := by simpa using hbefore
  simp [firstOutOfBounds, hacc, hnone, ha]

/-- An instruction takes the fault of its first access outside the array (R156, R157). -/
theorem exec_of_firstOutOfBounds {i : Instr} {s : State} {a : Nat} (h : firstOutOfBounds s.mem.capacity i = some a) :
    exec i s = .next (s.takeAddressFault a) := by
  obtain ⟨k, hk⟩ := storeOf_raised_iff.2 h
  exact exec_of_storeOf_eq_some hk

/-- The accesses in their order: those before are inside the array, the next one is outside, and its fault is taken. -/
theorem exec_faults_after (before : List (AccessKind × Nat)) {after : List (AccessKind × Nat)} {i : Instr}
    {s : State} {kind : AccessKind} {a : Nat} (hacc : accesses i = before ++ (kind, a) :: after)
    (hbefore : ∀ x ∈ before, x.2 < s.mem.capacity) (ha : s.mem.capacity ≤ a) :
    exec i s = .next (s.takeAddressFault a) :=
  exec_of_firstOutOfBounds (firstOutOfBounds_eq_some hacc hbefore ha)

/-- Settles O8: each clause names one access of the instruction, after none, one or two others. -/
theorem addressFaultsInAccessOrder : Obligations.AddressFaultsInAccessOrder := by
  unfold Obligations.AddressFaultsInAccessOrder
  intro s faultAt
  refine ⟨?loadConst, ?readSrc, ?readDst, ?writeSrc, ?writeSum, ?maxB, ?maxD, ?maxC⟩
  case loadConst => exact fun _ _ h => exec_faults_after [] rfl (by simp) h
  case readSrc => exact fun _ _ h => exec_faults_after [] rfl (by simp) h
  case readDst => exact fun _ _ hsrc h => exec_faults_after [_] rfl (by simpa using hsrc) h
  case writeSrc => exact fun _ _ _ h => exec_faults_after [] rfl (by simp) h
  case writeSum => exact fun _ _ _ hsrc h => exec_faults_after [_] rfl (by simpa using hsrc) h
  case maxB => exact fun _ _ _ h => exec_faults_after [] rfl (by simp) h
  case maxD => exact fun _ _ _ hB h => exec_faults_after [_] rfl (by simpa using hB) h
  case maxC => exact fun _ _ _ hB hD h => exec_faults_after [_, _] rfl (by simpa using ⟨hB, hD⟩) h

end Sys2Proof.Machine

/-! ### Copies: the source keeps its value, and a cell copied to itself changes nothing -/

namespace Sys2Proof.Machine

/-- Copying a cell, wherever to, leaves the source as it was (R105, R110). -/
theorem memRead_set_cell {m : Memory} {a : Nat} (b : Nat) (h : a < m.capacity) :
    memRead (m.set b (m.cell a)) a = .done (m.cell a) := by
  by_cases hab : a = b
  · rw [← hab]
    exact memRead_set_same _ h
  · rw [memRead_set_other _ hab, memRead_inside h]

/-- Settles O5: inside the array `Read` sets the destination to the source's cell. -/
theorem readCopiesCell : Obligations.ReadCopiesCell := by
  unfold Obligations.ReadCopiesCell
  intro dstAddr srcAddr s hsrc hdst
  exact ⟨rfl, _, exec_read_inside hsrc hdst, storedCell_complete_set _ 0 hdst, memRead_set_cell _ hsrc⟩

/-- Inside the array `Write` completes with the cell at the sum set to the source's cell (R110). -/
theorem exec_write_inside {srcAddr : Addr} {offset : Offset} {baseAddr : Addr} {s : State}
    (hsrc : directAddress srcAddr < s.mem.capacity) (htgt : writeTarget offset baseAddr < s.mem.capacity) :
    exec (.write srcAddr offset baseAddr) s =
      .next (s.complete 0 (.done (s.mem.set (writeTarget offset baseAddr) (s.mem.cell (directAddress srcAddr))))) := by
  simp only [exec, execWrite, memRead_inside hsrc, Access.andThen_done, memWrite_inside _ htgt]

/-- Inside the array `Max` completes with `addrC` set to the larger of the two sources' cells (R117). -/
theorem exec_max_inside {addrB addrC addrD : Addr} {s : State} (hB : directAddress addrB < s.mem.capacity)
    (hC : directAddress addrC < s.mem.capacity) (hD : directAddress addrD < s.mem.capacity) :
    exec (.max addrB addrC addrD) s = .next (s.complete 1 (.done (s.mem.set (directAddress addrC)
      (maxCell (s.mem.cell (directAddress addrB)) (s.mem.cell (directAddress addrD)))))) := by
  simp only [exec, execMax, memRead_inside hB, memRead_inside hD, Access.andThen_done, memWrite_inside _ hC]

/-- A tie stores the common value (R120, decision D21). -/
@[simp] theorem maxCell_self (v : Nat) : maxCell v v = v := ite_self v

/-- Storing in a cell the value it holds gives the same memory as data: the canonical form (log entry 5) is unique. -/
theorem Memory.set_cell_self {m : Memory} {a : Nat} (hm : m.wf) (ha : a < m.capacity) : m.set a (m.cell a) = m := by
  refine memoriesThatReadAlikeAreEqual _ _ (Memory.set_wf hm ha) hm rfl fun b => ?_
  by_cases hb : b = a
  · rw [hb, memRead_set_same _ ha, memRead_inside ha]
  · exact memRead_set_other _ hb

/-- Completing an instruction that stored in a cell the value it holds changes `ip` and the counters alone (R83, R87). -/
theorem complete_set_cell_self {s : State} {a : Nat} (hm : s.mem.wf) (ha : a < s.mem.capacity) (k : Nat) :
    s.complete k (.done (s.mem.set a (s.mem.cell a))) =
      { s with ip := s.ip + 7, nExec := s.nExec + 1, nMax := s.nMax + k } := by
  rw [Memory.set_cell_self hm ha]
  rfl

/-- Settles O14: each of the three instructions stores in its one cell the value that cell holds. -/
theorem selfCopyLeavesMemory : Obligations.SelfCopyLeavesMemory := by
  unfold Obligations.SelfCopyLeavesMemory
  intro s hm
  refine ⟨fun a ha => ⟨?read, ?max⟩, fun a offset baseAddr ha htgt => ?write⟩
  case read => rw [exec_read_inside ha ha, complete_set_cell_self hm ha]; rfl
  case max => rw [exec_max_inside ha ha ha, maxCell_self, complete_set_cell_self hm ha]
  case write => rw [exec_write_inside ha (htgt ▸ ha), htgt, complete_set_cell_self hm ha]; rfl

end Sys2Proof.Machine

/-! ### Where a run faults, and all else but the cells, is decided by the program and the capacity -/

namespace Sys2Proof.Machine

/-- An instruction with no access outside the array completes, and leaves the capacity as it was (R83, R87). -/
theorem exec_completes {i : Instr} {s : State} (hi : i.wellFormed = true)
    (h : firstOutOfBounds s.mem.capacity i = none) : ∃ m, m.capacity = s.mem.capacity ∧
      exec i s = .next (s.complete (if i.tag = 7#5 then 1 else 0) (.done m)) := by
  rcases exec_cases i s with ⟨k, r, hr, -, hx⟩ | ⟨-, hi', -⟩
  · obtain rfl := storeOf_maxOps_eq hr
    cases r with
    | done m =>
      obtain ⟨a, v, -, rfl⟩ := storeOf_done_sets_cell hr
      exact ⟨_, s.mem.set_capacity a v, hx⟩
    | raised a => cases h.symm.trans (storeOf_raised_iff.1 ⟨_, hr⟩)
  · cases hi.symm.trans hi'

theorem SameButCells.takeAddressFault {s t : State} (h : SameButCells s t) (a : Nat) :
    SameButCells (s.takeAddressFault a) (t.takeAddressFault a) :=
  { h with fault := by simp [h.ip] }

theorem SameButCells.recordUnknown {s t : State} (h : SameButCells s t) (tag : Tag) :
    SameButCells (s.recordUnknown tag) (t.recordUnknown tag) :=
  { h with
    ip := by simp [h.ip]
    nUnknown := by simp [h.nUnknown]
    events := by simp [h.events, h.ip] }

/-- What the two instructions stored may differ: the memories need agree in their capacity alone. -/
theorem SameButCells.complete_done {s t : State} (h : SameButCells s t) (k : Nat) {m m' : Memory}
    (hm : m.capacity = m'.capacity) : SameButCells (s.complete k (.done m)) (t.complete k (.done m')) :=
  { h with
    capacity := hm
    ip := by simp [h.ip]
    nExec := by simp [h.nExec]
    nMax := by simp [h.nMax] }

/-- The accesses of an outcome are read off its operands, so the capacity alone decides how it ends: both states take
the same fault, both complete it, or both record it (R115). -/
theorem SameButCells.exec {s t : State} (h : SameButCells s t) (i : Instr) :
    ∃ s' t', exec i s = .next s' ∧ exec i t = .next t' ∧ SameButCells s' t' := by
  cases hi : i.wellFormed with
  | false =>
    exact ⟨_, _, exec_of_wellFormed_eq_false hi s, exec_of_wellFormed_eq_false hi t, h.recordUnknown i.tag⟩
  | true =>
    cases hs : firstOutOfBounds s.mem.capacity i with
    | some a =>
      have ht : firstOutOfBounds t.mem.capacity i = some a := h.capacity ▸ hs
      exact ⟨_, _, exec_of_firstOutOfBounds hs, exec_of_firstOutOfBounds ht, h.takeAddressFault a⟩
    | none =>
      obtain ⟨m, hm, hxs⟩ := exec_completes hi hs
      obtain ⟨m', hm', hxt⟩ := exec_completes hi (h.capacity ▸ hs)
      exact ⟨_, _, hxs, hxt, h.complete_done _ (hm.trans (h.capacity.trans hm'.symm))⟩

theorem SameButCells.execAll {s t : State} (h : SameButCells s t) (is : List Instr) :
    SameButCells (execAll is s) (execAll is t) := by
  induction is generalizing s t with
  | nil => exact h
  | cons i is ih =>
    cases hf : s.fault with
    | some r =>
      rw [execAll_of_fault hf, execAll_of_fault (h.fault ▸ hf)]
      exact h
    | none =>
      obtain ⟨s', t', hs', ht', h'⟩ := h.exec i
      rw [execAll_cons_of_next hf hs', execAll_cons_of_next (h.fault ▸ hf) ht']
      exact ih h'

/-- Settles O52: both runs execute the same outcomes, from start states that differ in the cells and their width. -/
theorem faultsDoNotDependOnData : Obligations.FaultsDoNotDependOnData := by
  unfold Obligations.FaultsDoNotDependOnData
  intro prog mem mem' cellBits cellBits' hcap
  have hstart : SameButCells (State.start { prog := prog, mem := mem, cellBits := cellBits })
      (State.start { prog := prog, mem := mem', cellBits := cellBits' }) :=
    ⟨hcap, rfl, rfl, rfl, rfl, rfl, rfl, rfl⟩
  rw [runIsItsInstructionsInOrder, runIsItsInstructionsInOrder]
  exact hstart.execAll _

end Sys2Proof.Machine

/-! ### `Write` stores to the sum of base and offset -/

namespace Sys2Proof.Machine

/-- Settles O6: inside the array `Write` sets the cell at the sum to the source's cell. -/
theorem writeCopiesCellToSum : Obligations.WriteCopiesCellToSum := by
  unfold Obligations.WriteCopiesCellToSum
  intro srcAddr offset baseAddr s hsrc htgt
  exact ⟨rfl, rfl, _, exec_write_inside hsrc htgt, storedCell_complete_set _ 0 htgt, memRead_set_cell _ hsrc⟩

/-- Settles O12: the two sums are 65566 and 65536, above every 16-bit address (R113 (d), (e)). -/
theorem writeTargetDoesNotWrap : Obligations.WriteTargetDoesNotWrap := by
  unfold Obligations.WriteTargetDoesNotWrap
  intro srcAddr s hsrc
  obtain ⟨-, -, -, -, hfault, -⟩ := addressFaultsInAccessOrder s
  have hmost : writeTarget 31#5 65535#16 = 65566 := rfl
  have hnext : writeTarget 1#5 65535#16 = 65536 := rfl
  refine ⟨?fault31, fun h => ?store31, ?fault1⟩
  case fault31 => exact hmost ▸ hfault srcAddr 31#5 65535#16 hsrc
  case store31 =>
    have hin : 65566 < s.mem.capacity := h
    exact ⟨_, exec_write_inside hsrc (hmost ▸ hin), hmost ▸ storedCell_complete_set _ 0 hin⟩
  case fault1 => exact hnext ▸ hfault srcAddr 1#5 65535#16 hsrc

/-- Settles O13: a sum with the offset 0 is the base, so both instructions make the same accesses (R113 (a)). -/
theorem writeWithZeroOffsetIsRead : Obligations.WriteWithZeroOffsetIsRead := by
  unfold Obligations.WriteWithZeroOffsetIsRead
  intro srcAddr dstAddr s
  have htgt : writeTarget 0#5 dstAddr = directAddress dstAddr := Nat.add_zero _
  simp only [exec, execWrite, execRead, htgt]

end Sys2Proof.Machine

/-! ### `Max` stores the larger of two cells: sources in either order, and one source twice -/

namespace Sys2Proof.Machine

theorem maxCell_eq_max (b d : Nat) : maxCell b d = Nat.max b d := by
  unfold maxCell
  split
  case isTrue h => exact (Nat.max_eq_left h).symm
  case isFalse h => exact (Nat.max_eq_right (Nat.le_of_not_le h)).symm

theorem maxCell_comm (b d : Nat) : maxCell b d = maxCell d b := by
  rw [maxCell_eq_max, maxCell_eq_max]
  exact Nat.max_comm b d

/-- Settles O7: inside the array `Max` sets the middle-named cell to the larger of the two sources' cells. -/
theorem maxStoresLargerCell : Obligations.MaxStoresLargerCell := by
  unfold Obligations.MaxStoresLargerCell
  intro addrB addrC addrD s hB hD hC
  rw [← maxCell_eq_max]
  exact ⟨rfl, _, exec_max_inside hB hC hD, storedCell_complete_set _ 1 hC⟩

/-- With both reads inside the array, `Max` completes with the one access that is left, the write (R117, R119). -/
theorem exec_max_sources_inside {addrB addrD : Addr} (addrC : Addr) {s : State}
    (hB : directAddress addrB < s.mem.capacity) (hD : directAddress addrD < s.mem.capacity) :
    exec (.max addrB addrC addrD) s = .next (s.complete 1 (memWrite s.mem (directAddress addrC)
      (maxCell (s.mem.cell (directAddress addrB)) (s.mem.cell (directAddress addrD))))) := by
  simp only [exec, execMax, memRead_inside hB, memRead_inside hD, Access.andThen_done]

/-- Settles O16: both orders of the sources come to the write of one value, whether or not that write is inside. -/
theorem maxSourcesCommute : Obligations.MaxSourcesCommute := by
  unfold Obligations.MaxSourcesCommute
  intro addrB addrC addrD s hB hD
  rw [exec_max_sources_inside addrC hB hD, exec_max_sources_inside addrC hD hB, maxCell_comm]

/-- An access made twice in a row gives one value twice, or raises as the first of the two does (R8). -/
theorem Access.andThen_same {α β : Type} (r : Access α) (f : α → α → Access β) :
    (r.andThen fun x => r.andThen (f x)) = r.andThen fun x => f x x := by
  cases r with
  | done x => rfl
  | raised a => rfl

/-- `Max` of one cell completes the accesses of `Read`: its second read adds nothing to the first (R121 (c)). -/
theorem exec_max_same_source (a c : Addr) (s : State) :
    exec (.max a c a) s = .next (s.complete 1 ((memRead s.mem (directAddress a)).andThen fun v =>
      memWrite s.mem (directAddress c) v)) := by
  simp only [exec, execMax, Access.andThen_same, maxCell_self]

/-- Completing a chain of accesses as a `Max` differs in `nMax` alone, which counts it if `nExec` does, that is if no
access raised (R87, decision D9). -/
theorem complete_one_eq_complete_zero (s : State) (r : Access Memory) :
    s.complete 1 r = { s.complete 0 r with nMax := (s.complete 1 r).nMax } ∧
      (s.complete 1 r).nMax = s.nMax + ((s.complete 1 r).nExec - s.nExec) := by
  cases r with
  | done m => exact ⟨rfl, congrArg (s.nMax + ·) (Nat.add_sub_cancel_left s.nExec 1).symm⟩
  | raised a => exact ⟨rfl, congrArg (s.nMax + ·) (Nat.sub_self s.nExec).symm⟩

/-- Settles O15: both instructions complete the same chain of accesses, `Max` with one `Max` counted. -/
theorem maxOfOneCellIsRead : Obligations.MaxOfOneCellIsRead := by
  unfold Obligations.MaxOfOneCellIsRead
  intro a c s
  exact ⟨_, _, exec_max_same_source a c s, rfl, complete_one_eq_complete_zero s _⟩

end Sys2Proof.Machine

/-! ### A halted run, and what the host reads after a run -/

namespace Sys2Proof.Machine

/-- A run that ends in a fault took it at a state `u` that some number of its steps reached with no fault recorded, each
of them 7 bytes on: it ends in `u` with the fault taken (R157, decision D7). -/
theorem runSteps_fault_is_precise {fuel : Nat} {s : State} {r : FaultRecord} (hs : s.fault = none)
    (hr : (runSteps fuel s).fault = some r) : ∃ k u a, runSteps k s = u ∧ u.fault = none ∧ u.ip = s.ip + 7 * k ∧
      s.mem.capacity ≤ a ∧ runSteps fuel s = u.takeAddressFault a := by
  induction fuel generalizing s with
  | zero => cases hs.symm.trans hr
  | succ fuel ih =>
    cases hen : s.enabled with
    | false =>
      rw [runSteps_of_not_enabled hen] at hr
      cases hs.symm.trans hr
    | true =>
      obtain ⟨t, ht⟩ := step_exists_next_iff.2 hen
      rw [runSteps_of_next ht] at hr ⊢
      rcases stepAdvancesOrFaults s t ht with ⟨htf, hip⟩ | ⟨a, ha, -, rfl⟩
      · obtain ⟨k, u, a, hu, huf, huip, ha, hend⟩ := ih htf hr
        obtain ⟨-, hcap, -⟩ := stepKeepsParameters s t ht
        exact ⟨k + 1, u, a, (runSteps_of_next ht k).trans hu, huf, by omega, hcap ▸ ha, hend⟩
      · exact ⟨0, s, a, rfl, hs, rfl, ha, runSteps_of_fault rfl fuel⟩

/-- Settles O48: each step from the start is one word, so the record's index is the number of steps before the fault. -/
theorem haltedRunIsPrecise : Obligations.HaltedRunIsPrecise := by
  unfold Obligations.HaltedRunIsPrecise
  intro input r hr
  obtain ⟨k, u, a, hu, huf, hip, ha, hend⟩ := runSteps_fault_is_precise (State.start_fault input) hr
  have hindex : u.index = k := by rw [State.index_eq, hip, State.start_ip]; omega
  have hrun : runSteps u.index (State.start input) = u := by rw [hindex, hu]
  obtain rfl : { cause := .addressOutOfBounds, addr := a, index := u.index } = r :=
    Option.some.inj ((congrArg State.fault hend).symm.trans hr)
  dsimp only
  rw [hrun]
  exact ⟨huf, by rw [hindex, hip, State.start_ip, Nat.zero_add], hend, rfl, ha⟩

/-- Settles O58: both answers are the two branches of one test of `enabled`. -/
theorem hostReadsOnlyAfterTheRun : Obligations.HostReadsOnlyAfterTheRun := by
  unfold Obligations.HostReadsOnlyAfterTheRun
  intro s first more
  constructor
  · intro h
    exact ⟨if_pos h, if_pos h⟩
  · intro h
    have hnot : ¬ s.enabled = true := by simp [h]
    exact ⟨if_neg hnot, if_neg hnot⟩

end Sys2Proof.Machine

/-! ### The reporter: ranges clamped to the memory, one report for each request -/

namespace Sys2Proof.Machine

/-- The `k`-th entry is that of the `k`-th address, with the value of its cell twice (R142). -/
theorem cellEntries_getElem?_eq_some {m : Memory} {start size k : Nat} {e : CellEntry}
    (h : (cellEntries m start size)[k]? = some e) :
    k < size ∧ e.address = start + k ∧ e.decimal = m.cell e.address ∧ e.hexadecimal = e.decimal := by
  simp only [cellEntries, List.getElem?_map, Option.map_eq_some_iff, List.getElem?_eq_some_iff, List.length_range,
    List.getElem_range] at h
  obtain ⟨_, ⟨hk, rfl⟩, rfl⟩ := h
  exact ⟨hk, rfl, rfl, rfl⟩

theorem cellEntries_map_address (m : Memory) (start size : Nat) :
    (cellEntries m start size).map CellEntry.address = List.range' start size := by
  rw [cellEntries, List.map_map, List.range'_eq_map_range]
  rfl

/-- Every address counted from the clamped start within the size of the range is a cell of the array (R141, R143). -/
theorem clampedAddress_lt {start stop : Int} {capacity k : Nat}
    (h : k < rangeSize (max start 0) (min stop ((capacity : Int) - 1))) : (max start 0).toNat + k < capacity := by
  unfold rangeSize at h
  omega

/-- The `k`-th cell of a report, which an empty range does not have: its address lies inside the array, `k` from the
clamped start, and its value stands twice (R141, R142, R143). -/
theorem reportRange_cell {m : Memory} {start stop : Int} {k : Nat} {e : CellEntry}
    (h : (reportRange m start stop).cells[k]? = some e) : (e.address : Int) = max start 0 + k ∧
      e.address < m.capacity ∧ e.decimal = m.cell e.address ∧ e.hexadecimal = e.decimal := by
  rcases lt_or_ge (min stop ((m.capacity : Int) - 1)) (max start 0) with hempty | hne
  · rw [reportRange_empty hempty] at h
    cases h
  · rw [reportRange_nonempty hne] at h
    obtain ⟨hk, haddr, hvalues⟩ := cellEntries_getElem?_eq_some h
    exact ⟨by omega, haddr ▸ clampedAddress_lt hk, hvalues⟩

/-- Settles O55: every range is the report of a request; the example's range is the whole array. -/
theorem snapshotStaysInsideMemory : Obligations.SnapshotStaysInsideMemory := by
  unfold Obligations.SnapshotStaysInsideMemory
  constructor
  · intro m first more r hr e he
    obtain ⟨request, -, rfl⟩ := List.mem_map.1 hr
    obtain ⟨k, hk⟩ := List.mem_iff_getElem?.1 he
    obtain ⟨-, hlt, -⟩ := reportRange_cell hk
    exact hlt
  · intro m hm
    have hstart : max (-5 : Int) 0 = 0 := by decide
    have hstop : min (10000 : Int) ((m.capacity : Int) - 1) = 255 := by omega
    rw [reportRange_nonempty (by omega), hstart, hstop]
    exact ⟨rfl, rfl, rfl, (cellEntries_map_address m 0 256).trans List.range_eq_range'.symm⟩

/-- Settles O56: the two cases of a report. -/
theorem snapshotReportsClampedRange : Obligations.SnapshotReportsClampedRange := by
  unfold Obligations.SnapshotReportsClampedRange
  intro m start stop
  constructor
  · intro hne
    have hcells : ∀ (k : Nat) (e : CellEntry), (reportRange m start stop).cells[k]? = some e →
        (e.address : Int) = max start 0 + k ∧ memRead m e.address = .done e.decimal ∧ e.hexadecimal = e.decimal := by
      intro k e he
      obtain ⟨haddr, hlt, hdec, hhex⟩ := reportRange_cell he
      exact ⟨haddr, memRead_eq_done.2 ⟨hlt, hdec⟩, hhex⟩
    have hsize : (rangeSize (max start 0) (min stop ((m.capacity : Int) - 1)) : Int) =
        min stop ((m.capacity : Int) - 1) - max start 0 + 1 := Int.toNat_of_nonneg (by omega)
    rw [reportRange_nonempty hne] at hcells ⊢
    exact ⟨rfl, rfl, hsize, cellEntries_length .., hcells⟩
  · intro hempty
    rw [reportRange_empty hempty]
    exact ⟨rfl, rfl⟩

/-- Settles O57: a snapshot maps the list of its requests. -/
theorem snapshotReportsEveryRequest : Obligations.SnapshotReportsEveryRequest := by
  unfold Obligations.SnapshotReportsEveryRequest
  intro m first more
  exact ⟨rfl, rfl, List.length_map _, fun _ _ => rfl, fun _ => rfl, fun _ => rfl⟩

end Sys2Proof.Machine

/-! ### The exceptional conditions: which access is reported, and one condition for each word -/

namespace Sys2Proof.Machine

/-- Settles O9: an instruction takes the fault of its first access outside the array; one with no such access completes,
and a word with an unknown tag is recorded. -/
theorem firstFailingAccessIsReported : Obligations.FirstFailingAccessIsReported := by
  unfold Obligations.FirstFailingAccessIsReported
  intro i s
  constructor
  · exact fun a h => exec_of_firstOutOfBounds h
  · intro h
    cases hi : i.wellFormed with
    | false => exact ⟨_, exec_of_wellFormed_eq_false hi s, rfl, rfl⟩
    | true =>
      obtain ⟨m, -, hx⟩ := exec_completes hi h
      exact ⟨_, hx, rfl, rfl⟩

/-- An outcome that is no instruction raises `UnknownOpcode`, whatever the capacity (R150, R156). -/
theorem conditionOf_of_wellFormed_eq_false {i : Instr} (hi : i.wellFormed = false) (n : Nat) :
    conditionOf n i = some .unknownOpcode := by
  simp [conditionOf, hi]

/-- The condition of an instruction is that of its first access outside the array, if it has one (R150, R156). -/
theorem conditionOf_of_wellFormed {i : Instr} (hi : i.wellFormed = true) (n : Nat) :
    conditionOf n i = (firstOutOfBounds n i).map fun _ => .addressOutOfBounds := if_pos hi

/-- Settles O10: a word is recorded as unknown, takes the fault of its first access outside the array, or completes; in
each case that is the condition it raises. -/
theorem oneConditionForEachWord : Obligations.OneConditionForEachWord := by
  unfold Obligations.OneConditionForEachWord
  intro i s hf
  cases hi : i.wellFormed with
  | false =>
    rw [conditionOf_of_wellFormed_eq_false hi]
    exact ⟨_, exec_of_wellFormed_eq_false hi s, hf, rfl⟩
  | true =>
    rw [conditionOf_of_wellFormed hi]
    cases h : firstOutOfBounds s.mem.capacity i with
    | some a => exact ⟨_, exec_of_firstOutOfBounds h, rfl, rfl⟩
    | none =>
      obtain ⟨m, -, hx⟩ := exec_completes hi h
      exact ⟨_, hx, hf, rfl⟩

end Sys2Proof.Machine

/-! ### The least capacity that a program needs -/

namespace Sys2Proof.Machine

/-- The shape of both capacities: the largest of a list of numbers, 0 when it is empty, is bounded where each of them
is. -/
theorem foldr_natMax_le_iff {α : Type} (f : α → Nat) (xs : List α) (n : Nat) :
    xs.foldr (fun x m => Nat.max (f x) m) 0 ≤ n ↔ ∀ x ∈ xs, f x ≤ n := by
  induction xs with
  | nil => simp
  | cons x xs ih => rw [List.foldr_cons, Nat.max_le, ih, List.forall_mem_cons]

/-- A capacity is enough for an instruction when all its accesses lie inside (R173). -/
theorem neededCapacity_le_iff {i : Instr} {n : Nat} : neededCapacity i ≤ n ↔ ∀ x ∈ accesses i, x.2 < n :=
  foldr_natMax_le_iff _ _ n

/-- A capacity is enough for a program when it is enough for each of its words (R173). -/
theorem programCapacity_le_iff {prog : List Byte} {n : Nat} :
    programCapacity prog ≤ n ↔ ∀ w ∈ programWords prog, neededCapacity (decodeWord w) ≤ n :=
  foldr_natMax_le_iff _ _ n

/-- No access lies outside the array exactly when the capacity is enough for the instruction (R156, R173). -/
theorem firstOutOfBounds_eq_none_iff {i : Instr} {n : Nat} : firstOutOfBounds n i = none ↔ neededCapacity i ≤ n := by
  simp [firstOutOfBounds, neededCapacity_le_iff]

/-- An outcome with no access outside the array takes no fault and keeps the capacity: an instruction completes, and
any other outcome is recorded (R83, R85). -/
theorem exec_of_firstOutOfBounds_eq_none {i : Instr} {s : State} (h : firstOutOfBounds s.mem.capacity i = none) :
    ∃ t, exec i s = .next t ∧ t.fault = s.fault ∧ t.mem.capacity = s.mem.capacity := by
  cases hi : i.wellFormed with
  | false => exact ⟨_, exec_of_wellFormed_eq_false hi s, rfl, rfl⟩
  | true =>
    obtain ⟨m, hm, hx⟩ := exec_completes hi h
    exact ⟨_, hx, rfl, hm⟩

/-- Executing outcomes in order takes no fault exactly when the capacity is enough for each of them: it stays as it is,
and the first outcome that needs more halts the run (R157, R173, decisions D1, D7). -/
theorem execAll_fault_eq_none_iff {is : List Instr} {s : State} (hf : s.fault = none) :
    (execAll is s).fault = none ↔ ∀ i ∈ is, neededCapacity i ≤ s.mem.capacity := by
  induction is generalizing s with
  | nil => simpa [execAll] using hf
  | cons i is ih =>
    rw [List.forall_mem_cons, ← firstOutOfBounds_eq_none_iff]
    cases h : firstOutOfBounds s.mem.capacity i with
    | some a =>
      rw [execAll_cons_of_next hf (exec_of_firstOutOfBounds h), execAll_of_fault (s.takeAddressFault_fault a)]
      simp
    | none =>
      obtain ⟨t, hx, htf, hcap⟩ := exec_of_firstOutOfBounds_eq_none h
      rw [execAll_cons_of_next hf hx, ih (htf.trans hf), hcap]
      simp

/-- Settles O53: a run executes the outcomes of its words in order, and the capacity is enough for the program when it
is enough for each of them. -/
theorem leastSufficientCapacity : Obligations.LeastSufficientCapacity := by
  unfold Obligations.LeastSufficientCapacity
  intro input
  rw [RunInput.safe, runIsItsInstructionsInOrder, execAll_fault_eq_none_iff (State.start_fault input),
    List.forall_mem_map, programCapacity_le_iff, State.start_mem]

/-- No outcome needs more than 65567 cells (R37, R173). -/
theorem neededCapacity_le (i : Instr) : neededCapacity i ≤ 65567 := by
  obtain ⟨hbound, -⟩ := accessesAreBoundedAndOrdered i
  exact neededCapacity_le_iff.2 fun x hx => Nat.lt_succ_of_le (hbound x hx).1

/-- Only the sum of `Write` exceeds 65535, so 65536 cells are enough for any other outcome (R37, R173). -/
theorem neededCapacity_le_of_tag_ne {i : Instr} (h : i.tag ≠ 20#5) : neededCapacity i ≤ 65536 := by
  obtain ⟨hbound, -⟩ := accessesAreBoundedAndOrdered i
  refine neededCapacity_le_iff.2 fun x hx => Nat.lt_of_not_le fun hle => ?_
  obtain ⟨-, hwrite⟩ := hbound x hx
  obtain ⟨srcAddr, offset, baseAddr, rfl, -⟩ := hwrite hle
  exact h rfl

/-- Settles O54: the two bounds on what one outcome needs hold of every word of the program. -/
theorem largeMemoryNeverFaults : Obligations.LargeMemoryNeverFaults := by
  unfold Obligations.LargeMemoryNeverFaults
  intro input
  rw [leastSufficientCapacity, programCapacity_le_iff]
  constructor
  · exact fun hcap w _ => (neededCapacity_le _).trans hcap
  · intro hcap hwords w hw
    have htag : (decodeWord w).tag ≠ 20#5 := tag_decodeWord w ▸ hwords w hw
    exact (neededCapacity_le_of_tag_ne htag).trans hcap

end Sys2Proof.Machine
